-- ==== Sys2Proof/Word.lean ====
section
/-! DEFINITION. The word types of the machine (spec/00_scope.md R7, R8; spec/10_state.md R20, R22). -/

namespace Sys2Proof

/-- A byte: a general register, a timer, a memory cell; 8 bits, bit 7 the most significant (R7). -/
abbrev Byte := BitVec 8

/-- A 16-bit word: the program counter, the address register I, a return address, an opcode (R7, R22, R23). -/
abbrev Word := BitVec 16

/-- A general register's number, one hexadecimal digit (R20). -/
abbrev Reg := Fin 16

/-- VF, the register that the flag-writing instructions overwrite (R21). -/
abbrev regF : Reg := 15

/-- V0, which Bnnn reads implicitly (R20). -/
abbrev reg0 : Reg := 0

/-- A key's number, 0x0 to 0xF (R188). -/
abbrev Key := Fin 16

end Sys2Proof
end

