-- ==== Sys2Proof/Syntax.lean ====
section
/-! DEFINITION. The instructions: one constructor per row of spec/opcode_table.json (spec/30_encoding.md R74). -/

namespace Sys2Proof

/-- The 34 instructions, in the order of R74. `x`, `y` are register numbers, `kk` the immediate byte, `nnn` the
12-bit address (R71); `n` is the number of rows of a sprite, a count. -/
inductive Instr where
  /-- 00E0 CLS (R165) -/
  | cls
  /-- 00EE RET (R110) -/
  | ret
  /-- 1nnn JP nnn (R111) -/
  | jpNnn (nnn : BitVec 12)
  /-- 2nnn CALL nnn (R112) -/
  | callNnn (nnn : BitVec 12)
  /-- 3xkk SE Vx, kk (R114) -/
  | seVxKk (x : Reg) (kk : Byte)
  /-- 4xkk SNE Vx, kk (R115) -/
  | sneVxKk (x : Reg) (kk : Byte)
  /-- 5xy0 SE Vx, Vy (R116) -/
  | seVxVy (x y : Reg)
  /-- 6xkk LD Vx, kk (R130) -/
  | ldVxKk (x : Reg) (kk : Byte)
  /-- 7xkk ADD Vx, kk (R131) -/
  | addVxKk (x : Reg) (kk : Byte)
  /-- 8xy0 LD Vx, Vy (R132) -/
  | ldVxVy (x y : Reg)
  /-- 8xy1 OR Vx, Vy (R133) -/
  | orVxVy (x y : Reg)
  /-- 8xy2 AND Vx, Vy (R134) -/
  | andVxVy (x y : Reg)
  /-- 8xy3 XOR Vx, Vy (R135) -/
  | xorVxVy (x y : Reg)
  /-- 8xy4 ADD Vx, Vy (R136) -/
  | addVxVy (x y : Reg)
  /-- 8xy5 SUB Vx, Vy (R137) -/
  | subVxVy (x y : Reg)
  /-- 8xy6 SHR Vx (R138); `y` is the don't-care field of R77, kept so that no bit of the word is lost -/
  | shrVx (x y : Reg)
  /-- 8xy7 SUBN Vx, Vy (R139) -/
  | subnVxVy (x y : Reg)
  /-- 8xyE SHL Vx (R140); `y` is the don't-care field of R77, kept so that no bit of the word is lost -/
  | shlVx (x y : Reg)
  /-- 9xy0 SNE Vx, Vy (R117) -/
  | sneVxVy (x y : Reg)
  /-- Annn LD I, nnn (R150) -/
  | ldINnn (nnn : BitVec 12)
  /-- Bnnn JP V0, nnn (R113) -/
  | jpV0Nnn (nnn : BitVec 12)
  /-- Cxkk RND Vx, kk (R141) -/
  | rndVxKk (x : Reg) (kk : Byte)
  /-- Dxyn DRW Vx, Vy, n (R166) -/
  | drwVxVyN (x y : Reg) (n : Nat)
  /-- Ex9E SKP Vx (R180) -/
  | skpVx (x : Reg)
  /-- ExA1 SKNP Vx (R181) -/
  | sknpVx (x : Reg)
  /-- Fx07 LD Vx, DT (R184) -/
  | ldVxDt (x : Reg)
  /-- Fx0A LD Vx, K (R182) -/
  | ldVxK (x : Reg)
  /-- Fx15 LD DT, Vx (R185) -/
  | ldDtVx (x : Reg)
  /-- Fx18 LD ST, Vx (R186) -/
  | ldStVx (x : Reg)
  /-- Fx1E ADD I, Vx (R151) -/
  | addIVx (x : Reg)
  /-- Fx29 LD F, Vx (R152) -/
  | ldFVx (x : Reg)
  /-- Fx33 LD B, Vx (R153) -/
  | ldBVx (x : Reg)
  /-- Fx55 LD [I], Vx (R154) -/
  | ldMemIVx (x : Reg)
  /-- Fx65 LD Vx, [I] (R155) -/
  | ldVxMemI (x : Reg)
deriving DecidableEq, Repr

end Sys2Proof
end

