-- ==== Sys2Proof/Decode.lean ====
section
/-! DEFINITION. Decoding an opcode word, and encoding an instruction (spec/30_encoding.md R70 to R77). -/

namespace Sys2Proof

/-! ### Bytes and fields -/

/-- Two consecutive bytes combined big-endian: the byte at the lower address is bits 15 to 8 (R53). -/
def wordOfBytes (b0 b1 : Byte) : Word := BitVec.ofNat 16 (b0.toNat * 256 + b1.toNat)

/-- The byte of `w` at the lower address (R53, R70). -/
def highByte (w : Word) : Byte := w.extractLsb' 8 8

/-- The byte of `w` at the higher address (R53, R70). -/
def lowByte (w : Word) : Byte := w.extractLsb' 0 8

/-- `op`, the top nibble, bits 15:12 (R71). -/
def fieldOp (w : Word) : Nat := (w.extractLsb' 12 4).toNat

/-- `x`, bits 11:8 (R71). -/
def fieldX (w : Word) : Reg := (w.extractLsb' 8 4).toFin

/-- `y`, bits 7:4 (R71). -/
def fieldY (w : Word) : Reg := (w.extractLsb' 4 4).toFin

/-- `n`, bits 3:0 (R71). -/
def fieldN (w : Word) : Nat := (w.extractLsb' 0 4).toNat

/-- `kk`, bits 7:0 (R71). -/
def fieldKk (w : Word) : Byte := w.extractLsb' 0 8

/-- `nnn`, bits 11:0 (R71). -/
def fieldNnn (w : Word) : BitVec 12 := w.extractLsb' 0 12

/-! ### Decode -/

/-- What a word decodes to: one of the 34 instructions, or `Undefined` with the word itself (R75, R76). -/
inductive Decoded where
  | instr (i : Instr)
  | undefinedWord (w : Word)
deriving DecidableEq, Repr

/-- The sub-discriminant of top nibble 8 (R75). -/
def decode8 (w : Word) : Decoded :=
  match fieldN w with
  | 0x0 => .instr (.ldVxVy (fieldX w) (fieldY w))
  | 0x1 => .instr (.orVxVy (fieldX w) (fieldY w))
  | 0x2 => .instr (.andVxVy (fieldX w) (fieldY w))
  | 0x3 => .instr (.xorVxVy (fieldX w) (fieldY w))
  | 0x4 => .instr (.addVxVy (fieldX w) (fieldY w))
  | 0x5 => .instr (.subVxVy (fieldX w) (fieldY w))
  | 0x6 => .instr (.shrVx (fieldX w) (fieldY w))
  | 0x7 => .instr (.subnVxVy (fieldX w) (fieldY w))
  | 0xE => .instr (.shlVx (fieldX w) (fieldY w))
  | _ => .undefinedWord w

/-- The sub-discriminant of top nibble F (R75). -/
def decodeF (w : Word) : Decoded :=
  match (fieldKk w).toNat with
  | 0x07 => .instr (.ldVxDt (fieldX w))
  | 0x0A => .instr (.ldVxK (fieldX w))
  | 0x15 => .instr (.ldDtVx (fieldX w))
  | 0x18 => .instr (.ldStVx (fieldX w))
  | 0x1E => .instr (.addIVx (fieldX w))
  | 0x29 => .instr (.ldFVx (fieldX w))
  | 0x33 => .instr (.ldBVx (fieldX w))
  | 0x55 => .instr (.ldMemIVx (fieldX w))
  | 0x65 => .instr (.ldVxMemI (fieldX w))
  | _ => .undefinedWord w

/-- The decode procedure, "top nibble, then sub-discriminant", total on all 65536 words (R75). The last arm is top
nibble F, the only value of the 4-bit field the arms above leave. -/
def decode (w : Word) : Decoded :=
  match fieldOp w with
  | 0x0 => if w = 0x00E0 then .instr .cls else if w = 0x00EE then .instr .ret else .undefinedWord w
  | 0x1 => .instr (.jpNnn (fieldNnn w))
  | 0x2 => .instr (.callNnn (fieldNnn w))
  | 0x3 => .instr (.seVxKk (fieldX w) (fieldKk w))
  | 0x4 => .instr (.sneVxKk (fieldX w) (fieldKk w))
  | 0x5 => if fieldN w = 0 then .instr (.seVxVy (fieldX w) (fieldY w)) else .undefinedWord w
  | 0x6 => .instr (.ldVxKk (fieldX w) (fieldKk w))
  | 0x7 => .instr (.addVxKk (fieldX w) (fieldKk w))
  | 0x8 => decode8 w
  | 0x9 => if fieldN w = 0 then .instr (.sneVxVy (fieldX w) (fieldY w)) else .undefinedWord w
  | 0xA => .instr (.ldINnn (fieldNnn w))
  | 0xB => .instr (.jpV0Nnn (fieldNnn w))
  | 0xC => .instr (.rndVxKk (fieldX w) (fieldKk w))
  | 0xD => .instr (.drwVxVyN (fieldX w) (fieldY w) (fieldN w))
  | 0xE =>
    if fieldKk w = 0x9E then .instr (.skpVx (fieldX w))
    else if fieldKk w = 0xA1 then .instr (.sknpVx (fieldX w)) else .undefinedWord w
  | _ => decodeF w

/-- Decoding the two bytes of an instruction, the byte at the lower address first (R53, R70). -/
def decodeBytes (b0 b1 : Byte) : Decoded := decode (wordOfBytes b0 b1)

/-- The instruction the decoder reads from a word of spec/opcode_table.json, whose bit 0 is the least significant
bit of the 16-bit opcode (R7): laid out big-endian (R53) and given to `decodeBytes`. Every row has 16 bits (R70). -/
def decodeTableWord (nbits w : Nat) : Option Instr :=
  if nbits ≤ 16 ∧ w < 65536 then
    match decodeBytes (highByte (BitVec.ofNat 16 w)) (lowByte (BitVec.ofNat 16 w)) with
    | .instr i => some i
    | .undefinedWord _ => none
  else none

/-! ### Encode -/

/-- Format NNN (R72). -/
def wordNnn (op : Nat) (nnn : BitVec 12) : Word := BitVec.ofNat 16 (op * 4096 + nnn.toNat)

/-- Formats XKK and XS: in XS the low byte is the sub-opcode (R72). -/
def wordXkk (op : Nat) (x : Reg) (kk : Byte) : Word := BitVec.ofNat 16 (op * 4096 + x.val * 256 + kk.toNat)

/-- Formats XY and XYN: in XY the low nibble is the sub-opcode (R72). -/
def wordXyn (op : Nat) (x y : Reg) (n : Nat) : Word := BitVec.ofNat 16 (op * 4096 + x.val * 256 + y.val * 16 + n)

/-- The word of a well-formed instruction, from the encodings of R74. -/
def encode : Instr → Word
  | .cls => 0x00E0
  | .ret => 0x00EE
  | .jpNnn nnn => wordNnn 0x1 nnn
  | .callNnn nnn => wordNnn 0x2 nnn
  | .seVxKk x kk => wordXkk 0x3 x kk
  | .sneVxKk x kk => wordXkk 0x4 x kk
  | .seVxVy x y => wordXyn 0x5 x y 0x0
  | .ldVxKk x kk => wordXkk 0x6 x kk
  | .addVxKk x kk => wordXkk 0x7 x kk
  | .ldVxVy x y => wordXyn 0x8 x y 0x0
  | .orVxVy x y => wordXyn 0x8 x y 0x1
  | .andVxVy x y => wordXyn 0x8 x y 0x2
  | .xorVxVy x y => wordXyn 0x8 x y 0x3
  | .addVxVy x y => wordXyn 0x8 x y 0x4
  | .subVxVy x y => wordXyn 0x8 x y 0x5
  | .shrVx x y => wordXyn 0x8 x y 0x6
  | .subnVxVy x y => wordXyn 0x8 x y 0x7
  | .shlVx x y => wordXyn 0x8 x y 0xE
  | .sneVxVy x y => wordXyn 0x9 x y 0x0
  | .ldINnn nnn => wordNnn 0xA nnn
  | .jpV0Nnn nnn => wordNnn 0xB nnn
  | .rndVxKk x kk => wordXkk 0xC x kk
  | .drwVxVyN x y n => wordXyn 0xD x y n
  | .skpVx x => wordXkk 0xE x 0x9E
  | .sknpVx x => wordXkk 0xE x 0xA1
  | .ldVxDt x => wordXkk 0xF x 0x07
  | .ldVxK x => wordXkk 0xF x 0x0A
  | .ldDtVx x => wordXkk 0xF x 0x15
  | .ldStVx x => wordXkk 0xF x 0x18
  | .addIVx x => wordXkk 0xF x 0x1E
  | .ldFVx x => wordXkk 0xF x 0x29
  | .ldBVx x => wordXkk 0xF x 0x33
  | .ldMemIVx x => wordXkk 0xF x 0x55
  | .ldVxMemI x => wordXkk 0xF x 0x65

/-! ### The opcode map as a table -/

/-- A row of R74: an opcode `w` selects the row's instruction when `w & mask = bits`. -/
structure OpcodeRow where
  mask : Word
  bits : Word
deriving DecidableEq, Repr

/-- The row of R74 whose instruction `w` may select. -/
def OpcodeRow.selects (r : OpcodeRow) (w : Word) : Bool := decide (w &&& r.mask = r.bits)

/-- The row of R74 that each constructor stands for. -/
def rowOf : Instr → OpcodeRow
  | .cls => ⟨0xFFFF, 0x00E0⟩
  | .ret => ⟨0xFFFF, 0x00EE⟩
  | .jpNnn _ => ⟨0xF000, 0x1000⟩
  | .callNnn _ => ⟨0xF000, 0x2000⟩
  | .seVxKk _ _ => ⟨0xF000, 0x3000⟩
  | .sneVxKk _ _ => ⟨0xF000, 0x4000⟩
  | .seVxVy _ _ => ⟨0xF00F, 0x5000⟩
  | .ldVxKk _ _ => ⟨0xF000, 0x6000⟩
  | .addVxKk _ _ => ⟨0xF000, 0x7000⟩
  | .ldVxVy _ _ => ⟨0xF00F, 0x8000⟩
  | .orVxVy _ _ => ⟨0xF00F, 0x8001⟩
  | .andVxVy _ _ => ⟨0xF00F, 0x8002⟩
  | .xorVxVy _ _ => ⟨0xF00F, 0x8003⟩
  | .addVxVy _ _ => ⟨0xF00F, 0x8004⟩
  | .subVxVy _ _ => ⟨0xF00F, 0x8005⟩
  | .shrVx _ _ => ⟨0xF00F, 0x8006⟩
  | .subnVxVy _ _ => ⟨0xF00F, 0x8007⟩
  | .shlVx _ _ => ⟨0xF00F, 0x800E⟩
  | .sneVxVy _ _ => ⟨0xF00F, 0x9000⟩
  | .ldINnn _ => ⟨0xF000, 0xA000⟩
  | .jpV0Nnn _ => ⟨0xF000, 0xB000⟩
  | .rndVxKk _ _ => ⟨0xF000, 0xC000⟩
  | .drwVxVyN _ _ _ => ⟨0xF000, 0xD000⟩
  | .skpVx _ => ⟨0xF0FF, 0xE09E⟩
  | .sknpVx _ => ⟨0xF0FF, 0xE0A1⟩
  | .ldVxDt _ => ⟨0xF0FF, 0xF007⟩
  | .ldVxK _ => ⟨0xF0FF, 0xF00A⟩
  | .ldDtVx _ => ⟨0xF0FF, 0xF015⟩
  | .ldStVx _ => ⟨0xF0FF, 0xF018⟩
  | .addIVx _ => ⟨0xF0FF, 0xF01E⟩
  | .ldFVx _ => ⟨0xF0FF, 0xF029⟩
  | .ldBVx _ => ⟨0xF0FF, 0xF033⟩
  | .ldMemIVx _ => ⟨0xF0FF, 0xF055⟩
  | .ldVxMemI _ => ⟨0xF0FF, 0xF065⟩

/-- The 34 rows of R74, in its order. -/
def opcodeRows : List OpcodeRow :=
  [⟨0xFFFF, 0x00E0⟩, ⟨0xFFFF, 0x00EE⟩, ⟨0xF000, 0x1000⟩, ⟨0xF000, 0x2000⟩, ⟨0xF000, 0x3000⟩, ⟨0xF000, 0x4000⟩,
   ⟨0xF00F, 0x5000⟩, ⟨0xF000, 0x6000⟩, ⟨0xF000, 0x7000⟩, ⟨0xF00F, 0x8000⟩, ⟨0xF00F, 0x8001⟩, ⟨0xF00F, 0x8002⟩]
  ++ [⟨0xF00F, 0x8003⟩, ⟨0xF00F, 0x8004⟩, ⟨0xF00F, 0x8005⟩, ⟨0xF00F, 0x8006⟩, ⟨0xF00F, 0x8007⟩, ⟨0xF00F, 0x800E⟩,
   ⟨0xF00F, 0x9000⟩, ⟨0xF000, 0xA000⟩, ⟨0xF000, 0xB000⟩, ⟨0xF000, 0xC000⟩, ⟨0xF000, 0xD000⟩]
  ++ [⟨0xF0FF, 0xE09E⟩, ⟨0xF0FF, 0xE0A1⟩, ⟨0xF0FF, 0xF007⟩, ⟨0xF0FF, 0xF00A⟩, ⟨0xF0FF, 0xF015⟩, ⟨0xF0FF, 0xF018⟩,
   ⟨0xF0FF, 0xF01E⟩, ⟨0xF0FF, 0xF029⟩, ⟨0xF0FF, 0xF033⟩, ⟨0xF0FF, 0xF055⟩, ⟨0xF0FF, 0xF065⟩]

end Sys2Proof
end

