-- ==== Sys2Proof/Config.lean ====
section
/-! DEFINITION. The parameters of the block, its fixed sizes and its free values (spec/00_scope.md R5). -/

namespace Sys2Proof

/-- The parameters of R5 that an implementation fixes. A value of this type is part of `State` and no step changes
it, so that a claim over all states is a claim over all parameter values (notes/assumptions/1). -/
structure Config where
  /-- `IPT`, slots per tick, at least 1 (R5); `Sys2Proof.Machine.State.Inv` carries the bound. -/
  ipt : Nat
  /-- `STACK_DEPTH`; `none` is unbounded (R5, R25). -/
  stackDepth : Option Nat
  /-- `FONT`, the 80 bytes at 0x000 to 0x04F after reset (R5, R52). -/
  font : Vector Byte 80
  /-- `TONE_HZ`, passed to `ToneStart` and read by no rule (R5, R35). -/
  toneHz : Nat
deriving DecidableEq, Repr

/-- The random source: the value of the draw with the given serial number, 0 to 254 and nothing else known of it
(R36, R141). FREE VALUE: no body, so a claim holds whatever the draws are (notes/assumptions/2). -/
opaque Config.freeDraw : Nat → Fin 255

/-- The tone frequency the reset configuration carries. FREE VALUE: the spec gives no default (R5, R35;
notes/assumptions/3). -/
opaque Config.freeToneHz : Nat

/-- Memory size in bytes (R5, R29). -/
@[simp] abbrev Config.memSize : Nat := 4096

/-- Display columns, `COLS` (R5, R30). -/
@[simp] abbrev Config.cols : Nat := 64

/-- Display rows, `ROWS` (R5, R30). -/
@[simp] abbrev Config.rows : Nat := 32

/-- Where a program image is loaded, and the PC after reset (R5, R51). -/
@[simp] abbrev Config.loadBase : Nat := 0x200

/-- The longest program image, 4096 - 0x200 bytes (R63). -/
@[simp] abbrev Config.maxImage : Nat := 3584

/-- `TICK_HZ`, recorded and read by no rule (R5, R238). -/
abbrev Config.tickHz : Nat := 60

end Sys2Proof
end

