-- ==== Sys2Proof/Machine/State.lean ====
section
/-! DEFINITION. The machine's state as plain data, its value after reset, and how a step may end
(spec/10_state.md; the list with rules and reset values is INVENTORY.md's '## State'). -/

namespace Sys2Proof.Machine

/-- The fatal errors of R201, each with its `info`. -/
inductive FatalError where
  /-- code 1: the fetched word matches no row of R74 (R202) -/
  | decodeError (w : Word)
  /-- code 2: 00EE with the call stack empty (R203) -/
  | stackUnderflow
  /-- code 3: 2nnn with the call stack full (R203) -/
  | stackOverflow
  /-- code 4: an address used is 4096 or more; `a` is the lowest such address (R57, R204) -/
  | memoryOutOfBounds (a : Nat)
  /-- code 5: a set sprite bit off the grid, with its raw coordinates (R169) -/
  | drawOutOfGrid (px py : Nat)
  /-- code 6: Ex9E or ExA1 with Vx above 15 (R180) -/
  | keyIndexOutOfRange (v : Byte)
deriving DecidableEq, Repr

/-- What `FAULT` holds once set: the error with its information, and the address of the faulting instruction (R200). -/
structure FaultRecord where
  error : FatalError
  addr  : Word
deriving DecidableEq, Repr

/-- A request CORE issues on the display port or the tone port (R33, R35). -/
inductive PortRequest where
  /-- `DispToggle(px, py)` with raw coordinates, and the collision bit answered (R168) -/
  | dispToggle (px py : Nat) (unset : Bool)
  /-- `DispClear()` (R170) -/
  | dispClear
  /-- `DispFlush()` (R171) -/
  | dispFlush
  /-- `ToneStart(hz)` (R35) -/
  | toneStart (hz : Nat)
  /-- `ToneStop()` (R35) -/
  | toneStop
deriving DecidableEq, Repr

/-- A transaction the host or the input device issues to CORE (R32). A key is 0 to 15 by type: no other is delivered
(R183). -/
inductive HostEvent where
  | reset
  | load (bytes : List Byte)
  | tick
  | keyDown (k : Key)
  | keyUp (k : Key)
deriving DecidableEq, Repr

/-- MEM as the cells that differ from the reset contents (R29): addresses strictly rising (`Memory.wf`). -/
abbrev Memory := List Host.Cell

/-- DISP: 32 rows of 64 single-bit cells, `true` a set cell (R30). -/
abbrev Display := Vector (Vector Bool 64) 32

/-- The whole machine: the tuple of spec/10_state.md with the two devices' state, then five fields of the model's own. -/
structure State where
  /-- V0 to VF (R20, R21) -/
  v       : Vector Byte 16
  /-- the address register I (R22) -/
  iReg    : Word
  /-- the program counter (R23) -/
  pc      : Word
  /-- the call stack, the last appended address first (R25) -/
  stack   : List Word
  /-- the delay timer DT (R26) -/
  dt      : Byte
  /-- the sound timer ST (R26) -/
  st      : Byte
  /-- the pause latch WAIT (R27) -/
  wait    : Bool
  /-- WAITREG, the x field of the Fx0A that set the latch (R27) -/
  waitReg : Reg
  /-- the fault latch FAULT (R28, R200) -/
  fault   : Option FaultRecord
  /-- MEM (R29) -/
  mem     : Memory
  /-- DISP, the display device's cells (R30) -/
  disp    : Display
  /-- TONE, the tone device's bit: sounding or silent (R35) -/
  tone    : Bool
  /-- KEYS, the 16 key levels, carried as a cell as R187 allows (R34) -/
  keys    : Vector Bool 16
  /-- the parameters of R5; no step changes them (notes/assumptions/1) -/
  cfg     : Config
  /-- the model's own: slots of the current tick already used, 0 between ticks (R90; notes/assumptions/4) -/
  slot    : Nat
  /-- the model's own: host transactions issued and not yet begun, oldest first (R32, R62; notes/assumptions/5) -/
  inbox   : List HostEvent
  /-- the model's own: how many random draws were made, the serial number of the next (R36; notes/assumptions/2) -/
  draws   : Nat
  /-- the model's own: the requests issued on the display and tone ports, the newest first (R33, R35;
  notes/assumptions/6) -/
  ports   : List PortRequest
deriving DecidableEq, Repr

/-- Why a step stops without a next state. There is no such reason: each departure from defined behaviour is a fatal
error, which is a NEXT state with the fault latch set (R200, R201, R235). An empty type, so no step can raise one (safe). -/
inductive Fault where
deriving DecidableEq, Repr

/-- Why an instruction has no meaning. -/
inductive Refusal where
  /-- Raised by `exec` for an instruction that has no meaning yet, by its mnemonic (safe). No arm raises it now. -/
  | notModelled (mnemonic : String)
deriving DecidableEq, Repr

/-- The state after `Reset` with the default parameters (R37, R230). WAITREG = 0 and KEYS all released are the model's
choices where the spec gives no value (notes/assumptions/7 and 8). -/
def State.reset : State where
  v       := Vector.replicate 16 0
  iReg    := 0
  pc      := 0x200
  stack   := []
  dt      := 0
  st      := 0
  wait    := false
  waitReg := 0
  fault   := none
  mem     := []
  disp    := Vector.replicate 32 (Vector.replicate 64 false)
  tone    := false
  keys    := Vector.replicate 16 false
  cfg     := defaultConfig
  slot    := 0
  inbox   := []
  draws   := 0
  ports   := []

end Sys2Proof.Machine
end

