-- ==== Sys2Proof/Machine/Memory.lean ====
section
/-! DEFINITION. MEM as a sorted list of cells: reading and writing one byte (spec/20_memory.md R50 to R58). -/

namespace Sys2Proof.Machine

/-- What an address with no listed cell reads as: the reset contents, `FONT` at 0x000 to 0x04F and zero elsewhere
(R37, R51). -/
def unlisted (font : Vector Byte 80) (a : Nat) : Byte :=
  if h : a < 80 then font[a] else 0

/-- The byte at address `a`. -/
def Memory.read (font : Vector Byte 80) : Memory → Nat → Byte
  | [], a => unlisted font a
  | (k, b) :: m, a => if k = a then b else Memory.read font m a

/-- Every cell but the one at `a`. -/
def Memory.erase (a : Nat) : Memory → Memory
  | [] => []
  | (k, b) :: m => if k = a then Memory.erase a m else (k, b) :: Memory.erase a m

/-- A cell put before the first cell of a higher address. -/
def Memory.insert (a : Nat) (b : Byte) : Memory → Memory
  | [] => [(a, b)]
  | (k, c) :: m => if a < k then (a, b) :: (k, c) :: m else (k, c) :: Memory.insert a b m

/-- Storing the byte `b` at address `a`; storing what an unlisted address reads as leaves no cell there. -/
def Memory.write (font : Vector Byte 80) (m : Memory) (a : Nat) (b : Byte) : Memory :=
  if b = unlisted font a then m.erase a else (m.erase a).insert a b

/-- The canonical form: addresses strictly rising and below 4096, no cell equal to what its address reads as unlisted. -/
def Memory.wf (font : Vector Byte 80) : Memory → Bool
  | [] => true
  | (a, b) :: m =>
    decide (a < Config.memSize) && decide (b ≠ unlisted font a) && m.all (fun c => decide (a < c.1)) && Memory.wf font m

/-- `MemRead(a, 1)`, for an address that has been checked (R9, R57). -/
def State.memRead (s : State) (a : Nat) : Byte := Memory.read s.cfg.font s.mem a

/-- `MemWrite(a, 1, b)`, for an address that has been checked (R9, R57). -/
def State.memWrite (s : State) (a : Nat) (b : Byte) : State := { s with mem := Memory.write s.cfg.font s.mem a b }

/-- Byte writes at ascending addresses from `a` (R54). -/
def State.memWriteList (s : State) (a : Nat) : List Byte → State
  | [] => s
  | b :: bs => (s.memWrite a b).memWriteList (a + 1) bs

/-- `n` byte reads at ascending addresses from `a` (R54). -/
def State.memReadList (s : State) (a : Nat) : Nat → List Byte
  | 0 => []
  | n + 1 => s.memRead a :: s.memReadList (a + 1) n

/-- The check made before an access to `len` bytes from `base`: the lowest address that is 4096 or more, if any.
Addresses are unbounded integers (R57, R156). -/
def spanFault (base len : Nat) : Option Nat :=
  if 0 < len ∧ Config.memSize ≤ base + len - 1 then some (max base Config.memSize) else none

end Sys2Proof.Machine
end

