-- ==== Sys2Proof/Machine/Operands.lean ====
section
/-! DEFINITION. The operand forms: general registers, immediates, the address register and what it addresses
(spec/00_scope.md R9; spec/30_encoding.md R73; spec/20_memory.md R64). -/

namespace Sys2Proof.Machine

/-- `V[r]` (R9, R20). -/
def State.readV (s : State) (r : Reg) : Byte := s.v[r.val]

/-- `V[r] <- b` (R9, R20): all 16 registers are ordinary cells, VF included. -/
def State.writeV (s : State) (r : Reg) (b : Byte) : State := { s with v := s.v.set r.val b }

/-- An address immediate, zero-extended to 16 bits (R73). -/
def addrOf (nnn : BitVec 12) : Word := nnn.setWidth 16

/-- A register value where it meets a 16-bit cell: unsigned, zero-extended (R8). -/
def widen (b : Byte) : Word := b.setWidth 16

/-- I as an address: an unbounded integer, not reduced before a bounds check (R57). -/
def State.base (s : State) : Nat := s.iReg.toNat

/-- `I <- w` (R22). -/
def State.setI (s : State) (w : Word) : State := { s with iReg := w }

/-- `PC <- w` (R23). -/
def State.setPc (s : State) (w : Word) : State := { s with pc := w }

/-- `PC <- (PC + 2) mod 65536`, the skip (R23, R114). -/
def State.skip (s : State) : State := s.setPc (s.pc + 2)

/-- `if c: PC <- (PC + 2) mod 65536`. -/
def State.skipIf (s : State) (c : Bool) : State := if c then s.skip else s

/-- `DT <- b` (R26). -/
def State.setDt (s : State) (b : Byte) : State := { s with dt := b }

/-- `ST <- b` (R26). -/
def State.setSt (s : State) (b : Byte) : State := { s with st := b }

/-- V0 to V(k - 1), in ascending order: what Fx55 stores, with k = x + 1 (R154). -/
def State.regsBelow (s : State) : Nat → List Byte
  | 0 => []
  | k + 1 => s.regsBelow k ++ (if h : k < 16 then [s.readV ⟨k, h⟩] else [])

/-- V0 to V(k - 1) loaded from the bytes at `a`, in ascending order: what Fx65 does, with k = x + 1 (R155). -/
def State.loadRegs (s : State) (a : Nat) : Nat → State
  | 0 => s
  | k + 1 => if h : k < 16 then (s.loadRegs a k).writeV ⟨k, h⟩ (s.memRead (a + k)) else s.loadRegs a k

end Sys2Proof.Machine
end

