-- ==== Sys2Proof/Machine/Flags.lean ====
section
/-! DEFINITION. What the flag-writing instructions put in VF (spec/10_state.md R21; spec/00_scope.md R10, R12). -/

namespace Sys2Proof.Machine

/-- `(1 if condition else 0)` (R10). -/
def flagBit (c : Bool) : Byte := if c then 1 else 0

/-- 8xy4: 0 whatever the operands, the literal behaviour of the reference (R12, R136). -/
def flagAdd : Byte := 0

/-- 8xy5 and 8xy7: 1 if the minuend is strictly greater, unsigned; equal operands give 0 (R137, R139, R142). -/
def flagGreater (a b : Byte) : Byte := flagBit (decide (b.toNat < a.toNat))

/-- 8xy6: bit 0 of the operand, 0 or 1 (R138). -/
def flagLowBit (a : Byte) : Byte := a &&& 1

/-- 8xyE: the raw high bit, 0x00 or 0x80, not normalised (R12, R140). -/
def flagHighBit (a : Byte) : Byte := a &&& 0x80

end Sys2Proof.Machine
end

