-- ==== Sys2Proof/Machine/Ops.lean ====
section
/-! DEFINITION. The shared operations over the machine: raising a fatal error, the call stack, the ports, the random
draw (spec/60_exceptions.md R200; spec/10_state.md R25, R33 to R36; spec/44_display.md R167 to R171). -/

namespace Sys2Proof.Machine

/-! ### Fatal errors -/

/-- `raise E(info)`: the record is latched and the rest of the tick abandoned, its remaining slots, timer step, tone
step and flush, so that the engine stands between ticks; nothing else changes (R100, R200). There is no return from a
fatal error: only the `Reset` transaction clears the latch (R207). -/
def State.raiseAt (s : State) (e : FatalError) (a : Word) : State := { s with fault := some ⟨e, a⟩, slot := 0 }

/-- A raise from an instruction's effects: PC has already advanced, so the recorded address is PC - 2 (R200). -/
def State.raise (s : State) (e : FatalError) : State := s.raiseAt e (s.pc - 2)

/-- The numeric code of a fatal error (R201). -/
def FatalError.code : FatalError → Nat
  | .decodeError _ => 1
  | .stackUnderflow => 2
  | .stackOverflow => 3
  | .memoryOutOfBounds _ => 4
  | .drawOutOfGrid _ _ => 5
  | .keyIndexOutOfRange _ => 6

/-! ### The call stack -/

/-- `len(STACK) = STACK_DEPTH`; never when the capacity is unbounded (R25). -/
def State.stackFull (s : State) : Bool :=
  match s.cfg.stackDepth with
  | some d => decide (s.stack.length = d)
  | none => false

/-- `Push(w)` on a stack that is not full (R25). -/
def State.push (s : State) (w : Word) : State := { s with stack := w :: s.stack }

/-! ### The display port -/

/-- The coordinate correction: one subtraction, and only above the dimension (R167). -/
def corr (c dim : Nat) : Nat := if dim < c then c - dim else c

/-- Whether a raw position lies in the grid once corrected (R167, R169). -/
def inGrid (px py : Nat) : Bool := decide (corr px Config.cols < Config.cols) && decide (corr py Config.rows < Config.rows)

/-- The cell `DISP[qx, qy]`; unset outside the grid, where no cell exists (R30). -/
def Display.cell (d : Display) (qx qy : Nat) : Bool :=
  if h : qx < 64 ∧ qy < 32 then (d[qy]'h.2)[qx]'h.1 else false

/-- `DISP[qx, qy] <- DISP[qx, qy] XOR 1`, for a position in the grid (R168). -/
def Display.flip (d : Display) (qx qy : Nat) : Display :=
  if h : qx < 64 ∧ qy < 32 then d.set qy ((d[qy]'h.2).set qx (!(d[qy]'h.2)[qx]'h.1) h.1) h.2 else d

/-- A request recorded as issued (R33, R35). -/
def State.issue (s : State) (r : PortRequest) : State := { s with ports := r :: s.ports }

/-- The bit `DispToggle(px, py)` answers: the cell was set, and so ends unset (R168). -/
def State.toggleAnswer (s : State) (px py : Nat) : Bool := s.disp.cell (corr px Config.cols) (corr py Config.rows)

/-- The effect of `DispToggle(px, py)`, for a position inside the grid once corrected (R168). -/
def State.dispToggle (s : State) (px py : Nat) : State :=
  { s with disp := s.disp.flip (corr px Config.cols) (corr py Config.rows)
           ports := .dispToggle px py (s.toggleAnswer px py) :: s.ports }

/-- `DispClear()`: every cell unset (R170). -/
def State.dispClear (s : State) : State :=
  { s with disp := Vector.replicate 32 (Vector.replicate 64 false), ports := .dispClear :: s.ports }

/-- `DispFlush()`: the device presents DISP; no state of CORE or DISP changes (R96, R171). -/
def State.dispFlush (s : State) : State := s.issue .dispFlush

/-! ### Sprites -/

/-- The raw positions that row `row`, drawn at (`px`, `py`), toggles: column c is bit 7 - c (R166). -/
def rowCells (px py : Nat) (row : Byte) : List (Nat × Nat) :=
  (List.range 8).filterMap fun c => if row.getLsbD (7 - c) then some (px + c, py) else none

/-- The raw positions a sprite toggles, in row-major order: row r is drawn at vertical coordinate `py` + r (R166). -/
def spriteCells (px py : Nat) : List Byte → List (Nat × Nat)
  | [] => []
  | row :: rows => rowCells px py row ++ spriteCells px (py + 1) rows

/-- The first position off the grid, whose coordinates `DrawOutOfGrid` records (R169). -/
def firstOffGrid (cells : List (Nat × Nat)) : Option (Nat × Nat) := cells.find? fun p => !inGrid p.1 p.2

/-- `DispToggle` at each position in turn (R166). -/
def State.toggleAll (s : State) : List (Nat × Nat) → State
  | [] => s
  | p :: ps => (s.dispToggle p.1 p.2).toggleAll ps

/-- Whether any of those toggles answers 1: the `collision` of R166. -/
def State.collides (s : State) : List (Nat × Nat) → Bool
  | [] => false
  | p :: ps => s.toggleAnswer p.1 p.2 || (s.dispToggle p.1 p.2).collides ps

/-! ### The tone port -/

/-- `ToneStart(TONE_HZ)` (R35). -/
def State.toneStart (s : State) : State := { s with tone := true, ports := .toneStart s.cfg.toneHz :: s.ports }

/-- `ToneStop()` (R35). -/
def State.toneStop (s : State) : State := { s with tone := false, ports := .toneStop :: s.ports }

/-! ### The key port and the random source -/

/-- `KeyPressed(k)`: the level of key k (R187). -/
def State.keyPressed (s : State) (k : Key) : Bool := s.keys[k.val]

/-- `KeyPressed` for a register value, `none` above 15: the query is defined for 0 to 15 only (R180). -/
def State.keyQuery (s : State) (b : Byte) : Option Bool :=
  if h : b.toNat < 16 then some (s.keyPressed ⟨b.toNat, h⟩) else none

/-- The byte `RandByte()` draws, 0 to 254 (R141). -/
def State.randByte (s : State) : Byte := BitVec.ofNat 8 (Config.freeDraw s.draws).val

/-- The draw is used up: the next one is fresh (R141). -/
def State.drawn (s : State) : State := { s with draws := s.draws + 1 }

/-! ### The pause latch -/

/-- `WAIT <- 1; WAITREG <- x` (R182). -/
def State.setWait (s : State) (x : Reg) : State := { s with wait := true, waitReg := x }

end Sys2Proof.Machine
end

