-- ==== Sys2Proof/Machine/Alu.lean ====
section
/-! DEFINITION. The meanings of the register loads, the ALU operations and the random draw (spec/42_alu.md). The
statements of a meaning run in the order of its rule, each reading the state the one before left (spec/00_scope.md R11),
which shows when x or y is VF. -/

namespace Sys2Proof.Machine

/-- 6xkk (R130). -/
def execLdVxKk (x : Reg) (kk : Byte) (s : State) : Host.Outcome State Fault Refusal := .next (s.writeV x kk)

/-- 7xkk: wraps, and writes no flag (R131). -/
def execAddVxKk (x : Reg) (kk : Byte) (s : State) : Host.Outcome State Fault Refusal :=
  .next (s.writeV x (s.readV x + kk))

/-- 8xy0 (R132). -/
def execLdVxVy (x y : Reg) (s : State) : Host.Outcome State Fault Refusal := .next (s.writeV x (s.readV y))

/-- 8xy1 (R133). -/
def execOrVxVy (x y : Reg) (s : State) : Host.Outcome State Fault Refusal :=
  .next (s.writeV x (s.readV x ||| s.readV y))

/-- 8xy2 (R134). -/
def execAndVxVy (x y : Reg) (s : State) : Host.Outcome State Fault Refusal :=
  .next (s.writeV x (s.readV x &&& s.readV y))

/-- 8xy3 (R135). -/
def execXorVxVy (x y : Reg) (s : State) : Host.Outcome State Fault Refusal :=
  .next (s.writeV x (s.readV x ^^^ s.readV y))

/-- 8xy4: the sum, then the flag (R136). -/
def execAddVxVy (x y : Reg) (s : State) : Host.Outcome State Fault Refusal :=
  .next ((s.writeV x (s.readV x + s.readV y)).writeV regF flagAdd)

/-- 8xy5: the flag, then the difference of what the registers then hold (R137). -/
def execSubVxVy (x y : Reg) (s : State) : Host.Outcome State Fault Refusal :=
  let s1 := s.writeV regF (flagGreater (s.readV x) (s.readV y))
  .next (s1.writeV x (s1.readV x - s1.readV y))

/-- 8xy6: the flag, then the logical shift of what Vx then holds; the y field is ignored (R77, R138). -/
def execShrVx (x _y : Reg) (s : State) : Host.Outcome State Fault Refusal :=
  let s1 := s.writeV regF (flagLowBit (s.readV x))
  .next (s1.writeV x (s1.readV x >>> 1))

/-- 8xy7: the flag, then the difference of what the registers then hold (R139). -/
def execSubnVxVy (x y : Reg) (s : State) : Host.Outcome State Fault Refusal :=
  let s1 := s.writeV regF (flagGreater (s.readV y) (s.readV x))
  .next (s1.writeV x (s1.readV y - s1.readV x))

/-- 8xyE: the flag, then the shift of what Vx then holds; the y field is ignored (R77, R140). -/
def execShlVx (x _y : Reg) (s : State) : Host.Outcome State Fault Refusal :=
  let s1 := s.writeV regF (flagHighBit (s.readV x))
  .next (s1.writeV x (s1.readV x <<< 1))

/-- Cxkk with the drawn byte `r` given (R141). -/
def rndWith (r : Byte) (x : Reg) (kk : Byte) (s : State) : State := s.drawn.writeV x (r &&& kk)

/-- Cxkk: a fresh draw at every execution (R141). -/
def execRndVxKk (x : Reg) (kk : Byte) (s : State) : Host.Outcome State Fault Refusal :=
  .next (rndWith s.randByte x kk s)

end Sys2Proof.Machine
end

