-- ==== Sys2Proof/Machine/Control.lean ====
section
/-! DEFINITION. The meanings of the control transfers (spec/41_control_flow.md). Each runs with PC already advanced
past the instruction (R92, R93). -/

namespace Sys2Proof.Machine

/-- 00EE: the last pushed address becomes PC; `StackUnderflow` on an empty stack (R110). -/
def execRet (s : State) : Host.Outcome State Fault Refusal :=
  match s.stack with
  | [] => .next (s.raise .stackUnderflow)
  | w :: rest => .next { s with pc := w, stack := rest }

/-- 1nnn (R111). -/
def execJpNnn (nnn : BitVec 12) (s : State) : Host.Outcome State Fault Refusal := .next (s.setPc (addrOf nnn))

/-- 2nnn: PC, the address of the next instruction, is pushed; `StackOverflow` when the stack is full (R112). -/
def execCallNnn (nnn : BitVec 12) (s : State) : Host.Outcome State Fault Refusal :=
  if s.stackFull then .next (s.raise .stackOverflow) else .next ((s.push s.pc).setPc (addrOf nnn))

/-- Bnnn: the register is V0; the sum is not masked to 12 bits (R113). -/
def execJpV0Nnn (nnn : BitVec 12) (s : State) : Host.Outcome State Fault Refusal :=
  .next (s.setPc (addrOf nnn + widen (s.readV reg0)))

/-- 3xkk (R114). -/
def execSeVxKk (x : Reg) (kk : Byte) (s : State) : Host.Outcome State Fault Refusal :=
  .next (s.skipIf (decide (s.readV x = kk)))

/-- 4xkk (R115). -/
def execSneVxKk (x : Reg) (kk : Byte) (s : State) : Host.Outcome State Fault Refusal :=
  .next (s.skipIf (decide (s.readV x ≠ kk)))

/-- 5xy0 (R116). -/
def execSeVxVy (x y : Reg) (s : State) : Host.Outcome State Fault Refusal :=
  .next (s.skipIf (decide (s.readV x = s.readV y)))

/-- 9xy0 (R117). -/
def execSneVxVy (x y : Reg) (s : State) : Host.Outcome State Fault Refusal :=
  .next (s.skipIf (decide (s.readV x ≠ s.readV y)))

end Sys2Proof.Machine
end

