-- ==== Sys2Proof/Machine/Draw.lean ====
section
/-! DEFINITION. The meanings of the display instructions (spec/44_display.md). -/

namespace Sys2Proof.Machine

/-- 00E0 (R165). -/
def execCls (s : State) : Host.Outcome State Fault Refusal := .next s.dispClear

/-- The raw positions that Dxyn toggles in state `s`: Vx, Vy and I read once, the n sprite bytes from I (R166). -/
def State.drawCells (s : State) (x y : Reg) (n : Nat) : List (Nat × Nat) :=
  spriteCells (s.readV x).toNat (s.readV y).toNat (s.memReadList s.base n)

/-- The checks of Dxyn, the bounds of memory before the bounds of the grid (R166, R206). -/
def State.drawError (s : State) (x y : Reg) (n : Nat) : Option FatalError :=
  match spanFault s.base n with
  | some a => some (.memoryOutOfBounds a)
  | none =>
    match firstOffGrid (s.drawCells x y n) with
    | some p => some (.drawOutOfGrid p.1 p.2)
    | none => none

/-- The effects of Dxyn once its checks have passed: the toggles, then VF (R166). -/
def State.drawEffect (s : State) (x y : Reg) (n : Nat) : State :=
  (s.toggleAll (s.drawCells x y n)).writeV regF (flagBit (s.collides (s.drawCells x y n)))

/-- Dxyn (R166). -/
def execDrwVxVyN (x y : Reg) (n : Nat) (s : State) : Host.Outcome State Fault Refusal :=
  match s.drawError x y n with
  | some e => .next (s.raise e)
  | none => .next (s.drawEffect x y n)

end Sys2Proof.Machine
end

