-- ==== Sys2Proof/Machine/IndexMemory.lean ====
section
/-! DEFINITION. The meanings of the address register operations and the memory transfers (spec/43_index_memory.md).
Every check is made before the first change (spec/60_exceptions.md R205). -/

namespace Sys2Proof.Machine

/-- Annn (R150). -/
def execLdINnn (nnn : BitVec 12) (s : State) : Host.Outcome State Fault Refusal := .next (s.setI (addrOf nnn))

/-- Fx1E: modulo 65536, and no flag (R151). -/
def execAddIVx (x : Reg) (s : State) : Host.Outcome State Fault Refusal :=
  .next (s.setI (s.iReg + widen (s.readV x)))

/-- Fx29: 5 times the whole of Vx, which is not masked to its low nibble (R152). -/
def execLdFVx (x : Reg) (s : State) : Host.Outcome State Fault Refusal := .next (s.setI (widen (s.readV x) * 5))

/-- The hundreds, tens and units digits of a byte (R153). -/
def bcdDigits (b : Byte) : List Byte :=
  [BitVec.ofNat 8 (b.toNat / 100), BitVec.ofNat 8 (b.toNat / 10 % 10), BitVec.ofNat 8 (b.toNat % 10)]

/-- Fx33 (R153). -/
def execLdBVx (x : Reg) (s : State) : Host.Outcome State Fault Refusal :=
  match spanFault s.base 3 with
  | some a => .next (s.raise (.memoryOutOfBounds a))
  | none => .next (s.memWriteList s.base (bcdDigits (s.readV x)))

/-- Fx55: V0 to Vx stored from I upwards; I is not advanced (R154). -/
def execLdMemIVx (x : Reg) (s : State) : Host.Outcome State Fault Refusal :=
  match spanFault s.base (x.val + 1) with
  | some a => .next (s.raise (.memoryOutOfBounds a))
  | none => .next (s.memWriteList s.base (s.regsBelow (x.val + 1)))

/-- Fx65: V0 to Vx loaded from I upwards; I is not advanced (R155). -/
def execLdVxMemI (x : Reg) (s : State) : Host.Outcome State Fault Refusal :=
  match spanFault s.base (x.val + 1) with
  | some a => .next (s.raise (.memoryOutOfBounds a))
  | none => .next (s.loadRegs s.base (x.val + 1))

end Sys2Proof.Machine
end

