-- ==== Sys2Proof/Machine/KeysTimers.lean ====
section
/-! DEFINITION. The meanings of the key skips, the key wait and the timer transfers (spec/45_keys_timers.md). -/

namespace Sys2Proof.Machine

/-- Ex9E; Vx above 15 raises `KeyIndexOutOfRange` (R180). -/
def execSkpVx (x : Reg) (s : State) : Host.Outcome State Fault Refusal :=
  match s.keyQuery (s.readV x) with
  | none => .next (s.raise (.keyIndexOutOfRange (s.readV x)))
  | some pressed => .next (s.skipIf pressed)

/-- ExA1; Vx above 15 raises `KeyIndexOutOfRange` (R181). -/
def execSknpVx (x : Reg) (s : State) : Host.Outcome State Fault Refusal :=
  match s.keyQuery (s.readV x) with
  | none => .next (s.raise (.keyIndexOutOfRange (s.readV x)))
  | some pressed => .next (s.skipIf (!pressed))

/-- Fx07 (R184). -/
def execLdVxDt (x : Reg) (s : State) : Host.Outcome State Fault Refusal := .next (s.writeV x s.dt)

/-- Fx0A: the latch is set; Vx is written by the key delivery that ends the wait (R182, R183). -/
def execLdVxK (x : Reg) (s : State) : Host.Outcome State Fault Refusal := .next (s.setWait x)

/-- Fx15 (R185). -/
def execLdDtVx (x : Reg) (s : State) : Host.Outcome State Fault Refusal := .next (s.setDt (s.readV x))

/-- Fx18 (R186). -/
def execLdStVx (x : Reg) (s : State) : Host.Outcome State Fault Refusal := .next (s.setSt (s.readV x))

end Sys2Proof.Machine
end

