-- ==== Sys2Proof/Machine/Transactions.lean ====
section
/-! DEFINITION. The host's transactions other than `Tick`: `Reset`, `Load`, `KeyDown`, `KeyUp` (spec/10_state.md R32). -/

namespace Sys2Proof.Machine

/-- `Reset()`: the values of `State.reset`. The parameters, the key levels (an input, not reset), the host's schedule,
the random source and the record of port requests are none of CORE's state and stay (R230, R36). -/
def State.resetAll (s : State) : State :=
  { State.reset with cfg := s.cfg, keys := s.keys, inbox := s.inbox, draws := s.draws, ports := s.ports }

/-- What `Load` answers to the host (R63, R209). -/
inductive LoadStatus where
  | ok
  | loadTooLarge
  | faulted (r : FaultRecord)
deriving DecidableEq, Repr

/-- `Load(bytes)`: the image is copied verbatim to 0x200 and nothing else is written; more than 3584 bytes, or a fault
latched, refuse the whole load (R63, R98). -/
def State.load (s : State) (bytes : List Byte) : State × LoadStatus :=
  match s.fault with
  | some r => (s, .faulted r)
  | none =>
    if Config.maxImage < bytes.length then (s, .loadTooLarge) else (s.memWriteList Config.loadBase bytes, .ok)

/-- The level of key k set or cleared (R187). -/
def State.setKey (s : State) (k : Key) (level : Bool) : State := { s with keys := s.keys.set k.val level }

/-- What `KeyDown(k)` does in CORE: it ends a wait, writing the key's number into the register of the Fx0A (R183). -/
def State.deliverKey (s : State) (k : Key) : State :=
  if s.fault.isNone && s.wait then { s.writeV s.waitReg (BitVec.ofNat 8 k.val) with wait := false } else s

/-- `KeyDown(k)` (R183). -/
def State.keyDown (s : State) (k : Key) : State := (s.setKey k true).deliverKey k

/-- `KeyUp(k)` (R187). -/
def State.keyUp (s : State) (k : Key) : State := s.setKey k false

end Sys2Proof.Machine
end

