-- ==== Sys2Proof/Machine/Cycle.lean ====
section
/-! DEFINITION. The engine cycle: fetch, slot, timer step, tone step, flush, tick (spec/40_engine_cycle.md). -/

namespace Sys2Proof.Machine

/-! ### Fetch -/

/-- The bounds check of the fetch at PC, then PC + 1: the address that faults, if any (R92, R206). -/
def State.fetchFault (s : State) : Option Nat := spanFault s.pc.toNat 2

/-- The opcode at PC, big-endian (R53, R92). -/
def State.fetchWord (s : State) : Word := wordOfBytes (s.memRead s.pc.toNat) (s.memRead (s.pc.toNat + 1))

/-- The state in which the fetched instruction's effects run: PC advanced by 2 (R92), and the slot used up (R91). -/
def State.fetched (s : State) : State := { s with pc := s.pc + 2, slot := s.slot + 1 }

/-! ### The slot -/

/-- `Execute(Decode(w))` on the state after the fetch; an undefined word raises `DecodeError` (R91, R93). -/
def executeWord (w : Word) (s : State) : Host.Outcome State Fault Refusal :=
  match decode w with
  | .instr i => exec i s
  | .undefinedWord u => .next (s.raise (.decodeError u))

/-- A slot the pause latch leaves idle (R91). -/
def State.idleSlot (s : State) : State := { s with slot := s.slot + 1 }

/-- `Slot()` (R91). A fetch out of bounds leaves PC where it was and records it (R92, R200). -/
def slotStep (s : State) : Host.Outcome State Fault Refusal :=
  if s.wait then .next s.idleSlot
  else
    match s.fetchFault with
    | some a => .next (s.raiseAt (.memoryOutOfBounds a) s.pc)
    | none => executeWord s.fetchWord s.fetched

/-! ### The end of a tick -/

/-- One decrement, with a floor at 0 (R94). -/
def countDown (b : Byte) : Byte := if b = 0 then 0 else b - 1

/-- `TimerStep()` (R94). -/
def State.timerStep (s : State) : State :=
  if s.wait then s else { s with dt := countDown s.dt, st := countDown s.st }

/-- The tone step: one request, by ST as the timer step left it (R95). -/
def State.toneStep (s : State) : State := if s.st = 0 then s.toneStop else s.toneStart

/-- What follows the batch: timer step, tone step, flush, in this order; the engine then stands between ticks (R90). -/
def State.tickEnd (s : State) : State := { s.timerStep.toneStep.dispFlush with slot := 0 }

/-! ### The tick as one transaction -/

/-- `repeat k times: Slot()`, ended by a raise (R90, R100). -/
def runSlots : Nat → State → Host.Outcome State Fault Refusal
  | 0, s => .next s
  | k + 1, s =>
    match slotStep s with
    | .next t => if t.fault.isSome then .next t else runSlots k t
    | .fault r => .fault r
    | .refused r => .refused r

/-- `Tick()` as a whole, from a state between ticks (R90, R98, R100). -/
def tick (s : State) : Host.Outcome State Fault Refusal :=
  if s.fault.isSome then .next s
  else
    match runSlots s.cfg.ipt s with
    | .next t => if t.fault.isSome then .next t else .next t.tickEnd
    | .fault r => .fault r
    | .refused r => .refused r

/-- What `Tick` returns to the host once it is over, and the level output `fault`: `ok` is `none` (R32, R90, R200). -/
def State.tickAnswer (s : State) : Option FaultRecord := s.fault

/-- The level output `awaiting_key` (R32). -/
def State.awaitingKey (s : State) : Bool := s.wait

/-! ### One step of the machine -/

/-- One step of the tick in progress, or of a tick that begins: a slot while any is left, then the end of the tick. A
latched fault leaves nothing to do (R98). -/
def tickStep (s : State) : Host.Outcome State Fault Refusal :=
  if s.fault.isSome then .next s
  else if s.slot < s.cfg.ipt then slotStep s
  else .next s.tickEnd

/-- No transaction is in progress, so that another may begin (R32, R62, R101). -/
def State.betweenTicks (s : State) : Bool := decide (s.slot = 0) || s.fault.isSome

/-- A host transaction; a `Tick` begins with its first step, and one that finds a fault latched changes nothing (R32, R98). -/
def beginEvent (e : HostEvent) (s : State) : Host.Outcome State Fault Refusal :=
  match e with
  | .reset => .next s.resetAll
  | .load bytes => .next (s.load bytes).1
  | .tick => tickStep s
  | .keyDown k => .next (s.keyDown k)
  | .keyUp k => .next (s.keyUp k)

/-- One step: between ticks the oldest waiting transaction; inside a tick the tick's next part, which no transaction
interrupts (R101; notes/assumptions/4 and 5). Between ticks with none waiting nothing executes: the machine waits for the
host to issue one (R231). -/
def machineStep (s : State) : Host.Outcome State Fault Refusal :=
  if s.betweenTicks then
    match s.inbox with
    | [] => .next s
    | e :: rest => beginEvent e { s with inbox := rest }
  else tickStep s

/-! ### Placing an instruction where the next step fetches it -/

/-- `s` about to fetch in its next step: no fault latched, no wait, between ticks, a `Tick` and nothing else waiting, at
least one slot a tick, and PC at 0x200 where it could fetch nothing (notes/assumptions/9). -/
def State.readyToFetch (s : State) : State :=
  { s with pc := if s.pc.toNat ≤ 0xFFE then s.pc else 0x200, fault := none, wait := false, slot := 0, inbox := [.tick]
           cfg := { s.cfg with ipt := max 1 s.cfg.ipt } }

/-- The instruction word `w` stored big-endian where the next step fetches it (R53). -/
def State.placeWord (s : State) (w : Word) : State :=
  s.readyToFetch.memWriteList s.readyToFetch.pc.toNat [highByte w, lowByte w]

end Sys2Proof.Machine
end

