-- ==== Sys2Proof/Machine/Step.lean ====
section
/-! DEFINITION. The machine's step, and how an instruction word is placed before it. -/

namespace Sys2Proof.Machine

/-- One step of the machine: a slot, the end of a tick, or a host transaction (spec/40_engine_cycle.md). -/
def step (s : State) : Host.Outcome State Fault Refusal := machineStep s

/-- `s` with an opcode-table word stored where `step` fetches its next instruction. All instructions have 16 bits (R70). -/
def State.withFetchWord (s : State) (_nbits w : Nat) : State := s.placeWord (BitVec.ofNat 16 w)

end Sys2Proof.Machine
end

