-- ==== Sys2Proof/Safety.lean ====
section
/-! DEFINITION. What the statements say of states and runs: the run states, the invariant, frames, instruction
sequences, and which instruction may raise or write what. -/

namespace Sys2Proof

open Machine

/-! ### What each instruction may touch (R39) -/

/-- The general registers an instruction may write (R20, R21, R39). -/
def Instr.regsWritten : Instr → List Reg
  | .ldVxKk x _ | .addVxKk x _ | .ldVxVy x _ | .orVxVy x _ | .andVxVy x _ | .xorVxVy x _ | .rndVxKk x _ | .ldVxDt x => [x]
  | .addVxVy x _ | .subVxVy x _ | .shrVx x _ | .subnVxVy x _ | .shlVx x _ => [x, regF]
  | .drwVxVyN _ _ _ => [regF]
  | .ldVxMemI x => (List.finRange 16).filter fun r => decide (r ≤ x)
  | .cls | .ret | .jpNnn _ | .callNnn _ | .seVxKk _ _ | .sneVxKk _ _ | .seVxVy _ _ | .sneVxVy _ _ | .ldINnn _
  | .jpV0Nnn _ | .skpVx _ | .sknpVx _ | .ldVxK _ | .ldDtVx _ | .ldStVx _ | .addIVx _ | .ldFVx _ | .ldBVx _
  | .ldMemIVx _ => []

/-- Whether an instruction's own effects may write PC (R24). -/
def Instr.writesPc : Instr → Bool
  | .ret | .jpNnn _ | .callNnn _ | .jpV0Nnn _ | .seVxKk _ _ | .sneVxKk _ _ | .seVxVy _ _ | .sneVxVy _ _ | .skpVx _
  | .sknpVx _ => true
  | _ => false

/-- Whether an instruction may write I (R22). -/
def Instr.writesI : Instr → Bool
  | .ldINnn _ | .addIVx _ | .ldFVx _ => true
  | _ => false

/-- Whether an instruction may write the call stack (R25). -/
def Instr.writesStack : Instr → Bool
  | .ret | .callNnn _ => true
  | _ => false

/-- Whether an instruction may write memory (R64). -/
def Instr.writesMemory : Instr → Bool
  | .ldBVx _ | .ldMemIVx _ => true
  | _ => false

/-- Whether an instruction may change the display (R171). -/
def Instr.writesDisplay : Instr → Bool
  | .cls | .drwVxVyN _ _ _ => true
  | _ => false

/-- Which fatal errors an instruction may raise, and with what information (R201). -/
def Instr.mayRaise : Instr → FatalError → Prop
  | .ret, .stackUnderflow => True
  | .callNnn _, .stackOverflow => True
  | .drwVxVyN _ _ _, .memoryOutOfBounds a | .ldBVx _, .memoryOutOfBounds a | .ldMemIVx _, .memoryOutOfBounds a
  | .ldVxMemI _, .memoryOutOfBounds a => 4096 ≤ a
  | .drwVxVyN _ _ _, .drawOutOfGrid px py => inGrid px py = false
  | .skpVx _, .keyIndexOutOfRange b | .sknpVx _, .keyIndexOutOfRange b => 15 < b.toNat
  | _, _ => False

end Sys2Proof

namespace Sys2Proof.Machine

/-! ### Run states -/

/-- The three run states (R217). -/
inductive RunState where
  | running
  | waiting
  | halted
deriving DecidableEq, Repr

/-- The run state of the machine (R217). -/
def State.runState (s : State) : RunState :=
  if s.fault.isSome then .halted else if s.wait then .waiting else .running

/-- A safe state: no fatal error has been raised. -/
def State.safe (s : State) : Bool := s.fault.isNone

/-! ### The invariant -/

/-- What holds of every state a run reaches: memory in its canonical form; at least one slot a tick (R5); the call stack
within its capacity (R38); PC at most 0x10FE (R23) and every return address at most 0x1000 (R110); the place in the tick
within the tick, and between ticks once a fault is latched (R100). -/
structure State.Inv (s : State) : Prop where
  memory : Memory.wf s.cfg.font s.mem = true
  slots  : 1 ≤ s.cfg.ipt
  depth  : ∀ d, s.cfg.stackDepth = some d → s.stack.length ≤ d
  pc     : s.pc.toNat ≤ 0x10FE
  stack  : ∀ w ∈ s.stack, w.toNat ≤ 0x1000
  place  : s.slot ≤ s.cfg.ipt
  halted : s.fault ≠ none → s.slot = 0

/-! ### Where an instruction is about to run -/

/-- The next step of `s` is a slot that fetches: no fault, no wait, a slot left in the tick, and, between ticks, a `Tick`
as the host's next transaction (R91, R231). -/
def State.fetches (s : State) : Prop :=
  s.fault = none ∧ s.wait = false ∧ s.slot < s.cfg.ipt ∧ (s.slot = 0 → s.inbox.head? = some .tick)

/-- `s` inside its tick: between ticks, the transaction that begins is taken off the waiting ones. -/
def State.inTick (s : State) : State := { s with inbox := if s.slot = 0 then s.inbox.tail else s.inbox }

/-! ### Transactions between ticks -/

/-- The whole effect of a host transaction other than `Tick`, which is not one step and is left out here (R32). -/
def State.transact (s : State) : HostEvent → State
  | .reset => s.resetAll
  | .load bytes => (s.load bytes).1
  | .tick => s
  | .keyDown k => s.keyDown k
  | .keyUp k => s.keyUp k

/-! ### Frames -/

/-- Every general register but those listed is as before. -/
def regsKept (s t : State) (changed : List Reg) : Prop := ∀ r, r ∉ changed → t.readV r = s.readV r

/-- Every byte of memory outside the `len` bytes from `base` is as before. -/
def bytesKept (s t : State) (base len : Nat) : Prop :=
  ∀ a, ¬(base ≤ a ∧ a < base + len) → t.memRead a = s.memRead a

/-- All of `s` but the general registers is as before. -/
def onlyRegs (s t : State) : Prop := t = { s with v := t.v }

/-- `s` after a fatal error raised by an instruction's effects: the record latched with the instruction's address, PC - 2,
the engine between ticks, and nothing else changed (R200, R205). -/
def State.afterFault (s : State) (e : FatalError) : State := { s with fault := some ⟨e, s.pc - 2⟩, slot := 0 }

/-! ### Subtraction with VF as an operand -/

/-- The results of a subtraction whose flag is `f`, with minuend register `p` and subtrahend register `q`, destination
`x` (one of the two) and the operands' values `vp`, `vq` before: the difference is that of the registers once the flag
stands in VF. -/
def subResults (x p q : Reg) (vp vq f : Nat) (t : State) : Prop :=
  (x ≠ regF → (t.readV regF).toNat = f) ∧
  (p ≠ regF → q ≠ regF → (t.readV x).toNat = (vp + 256 - vq) % 256) ∧
  (p = regF → q ≠ regF → (t.readV x).toNat = (f + 256 - vq) % 256) ∧
  (p ≠ regF → q = regF → (t.readV x).toNat = (vp + 256 - f) % 256) ∧
  (p = regF → q = regF → (t.readV x).toNat = 0)

/-! ### Instruction sequences -/

/-- The effects of a list of instructions, one after another, with no fetch between them. -/
def runInstrs : List Instr → State → Host.Outcome State Fault Refusal
  | [], s => .next s
  | i :: is, s =>
    match exec i s with
    | .next t => runInstrs is t
    | .fault r => .fault r
    | .refused r => .refused r

/-- The timer step made `n` times. -/
def timerSteps : Nat → State → State
  | 0, s => s
  | n + 1, s => timerSteps n s.timerStep

/-! ### Sprites -/

/-- A set bit of the n-row sprite at I, drawn at (Vx, Vy), has the cell (`qx`, `qy`) as its corrected position (R166, R167). -/
def State.spriteCovers (s : State) (x y : Reg) (n qx qy : Nat) : Prop :=
  ∃ r c, r < n ∧ c < 8 ∧ (s.memRead (s.base + r)).getLsbD (7 - c) = true
    ∧ corr ((s.readV x).toNat + c) Config.cols = qx ∧ corr ((s.readV y).toNat + r) Config.rows = qy

/-- The requests that drawing that sprite issues, in the order of issue: rows outer, columns inner, one `DispToggle` for
each set bit, with the bit answered where the covered cell was set in `s` (R166, R168). -/
def State.spriteRequests (s : State) (x y : Reg) (n : Nat) : List PortRequest :=
  (List.range n).flatMap fun r =>
    (List.range 8).filterMap fun c =>
      let px := (s.readV x).toNat + c
      let py := (s.readV y).toNat + r
      if (s.memRead (s.base + r)).getLsbD (7 - c) then
        some (.dispToggle px py (s.disp.cell (corr px Config.cols) (corr py Config.rows)))
      else none

/-- Every set bit of that sprite lies in the grid once corrected (R169). -/
def State.spriteFits (s : State) (x y : Reg) (n : Nat) : Prop :=
  ∀ r, r < n → ∀ c, c < 8 → (s.memRead (s.base + r)).getLsbD (7 - c) = true →
    inGrid ((s.readV x).toNat + c) ((s.readV y).toNat + r) = true

end Sys2Proof.Machine
end

