-- ==== Sys2Proof/Certificates/Slice0/Obligations.lean ====
section
/-! DEFINITION. The statements for the provers. `s` is a state in which an instruction's effects run, PC already
advanced (spec/40_engine_cycle.md R93), unless a statement speaks of `step` or `tick`. -/

open Sys2Proof Sys2Proof.Machine

/-! ### Encoding -/

/-- Decoding the word of a well-formed instruction gives it back, with every operand at every value (R71 to R75). -/
def Obligations.DecodeOfEncodeIsTheInstruction : Prop :=
  ∀ i : Instr, i.wellFormed = true → decode (encode i) = .instr i

/-- What a word decodes to is well formed and encodes to that word, so no bit is dropped (R71 to R75). For
8xy6 and 8xyE, of which all 16 y are one operation (R77, R82), this holds because the model keeps the don't-care y as an
operand, its own choice (notes/assumptions/16). -/
def Obligations.EncodeOfDecodeIsTheWord : Prop :=
  ∀ (w : Word) (i : Instr), decode w = .instr i → i.wellFormed = true ∧ encode i = w

/-- The decode procedure of R75 gives what the table of R74 selects, and is undefined exactly where no row selects. -/
def Obligations.DecodeFollowsTheOpcodeTable : Prop :=
  ∀ w : Word,
    (∀ i, decode w = .instr i → (rowOf i).selects w = true ∧ rowOf i ∈ opcodeRows) ∧
    (∀ u, decode w = .undefinedWord u → u = w) ∧
    (decode w = .undefinedWord w ↔ ∀ r ∈ opcodeRows, r.selects w = false)

/-- No word is selected by two rows of R74, and there are 34 rows. -/
def Obligations.OpcodePatternsAreDisjoint : Prop :=
  opcodeRows.length = 34 ∧
  ∀ r1 ∈ opcodeRows, ∀ r2 ∈ opcodeRows, ∀ w : Word, r1.selects w = true → r2.selects w = true → r1 = r2

/-- Words written out from R74 and from spec/95_test_vectors.md V1.1 to V1.5 decode to their instructions. -/
def Obligations.WrittenOutWordsDecode : Prop :=
  decodeBytes 0x12 0x34 = .instr (.jpNnn 0x234) ∧ decodeBytes 0xD4 0xA7 = .instr (.drwVxVyN 4 10 7) ∧
  decodeBytes 0x8A 0xB6 = .instr (.shrVx 10 11) ∧ decodeBytes 0xEA 0xA1 = .instr (.sknpVx 10) ∧
  decodeBytes 0xFA 0x65 = .instr (.ldVxMemI 10) ∧ decodeBytes 0x00 0xE1 = .undefinedWord 0x00E1 ∧
  decodeBytes 0xF0 0x56 = .undefinedWord 0xF056

/-! ### Control flow -/

/-- 1nnn and Bnnn: PC becomes nnn, or nnn + V0 without any reduction, and nothing else changes. -/
def Obligations.JumpsSetPc : Prop :=
  ∀ (nnn : BitVec 12) (s : State),
    (∃ t, exec (.jpNnn nnn) s = .next t ∧ t.pc.toNat = nnn.toNat ∧ t = { s with pc := t.pc }) ∧
    (∃ t, exec (.jpV0Nnn nnn) s = .next t ∧ t.pc.toNat = nnn.toNat + (s.readV 0).toNat ∧ t = { s with pc := t.pc })

/-- 2nnn: PC, the address after the call, is pushed and PC becomes nnn; with the stack at its capacity it raises
`StackOverflow` and pushes nothing. -/
def Obligations.CallPushesPcOrOverflows : Prop :=
  ∀ (nnn : BitVec 12) (s : State),
    (s.cfg.stackDepth = some s.stack.length → exec (.callNnn nnn) s = .next (s.afterFault .stackOverflow)) ∧
    (s.cfg.stackDepth ≠ some s.stack.length →
      ∃ t, exec (.callNnn nnn) s = .next t ∧ t.pc.toNat = nnn.toNat ∧ t.stack = s.pc :: s.stack ∧
        t = { s with pc := t.pc, stack := t.stack })

/-- 00EE, the whole word: the last pushed address becomes PC, whole, and leaves the stack; on an empty stack it raises
`StackUnderflow`. -/
def Obligations.ReturnPopsPcOrUnderflows : Prop :=
  (∀ w, decode w = .instr .ret ↔ w = 0x00EE) ∧
  ∀ s : State,
    (s.stack = [] → exec .ret s = .next (s.afterFault .stackUnderflow)) ∧
    (∀ w rest, s.stack = w :: rest → exec .ret s = .next { s with pc := w, stack := rest })

/-- 3xkk, 4xkk: PC moves 2 further exactly when Vx = kk, or Vx ≠ kk, and nothing else changes. -/
def Obligations.ImmediateSkips : Prop :=
  ∀ (x : Reg) (kk : Byte) (s : State),
    exec (.seVxKk x kk) s = .next { s with pc := if s.readV x = kk then s.pc + 2 else s.pc } ∧
    exec (.sneVxKk x kk) s = .next { s with pc := if s.readV x = kk then s.pc else s.pc + 2 }

/-- 5xy0, 9xy0: PC moves 2 further exactly when Vx = Vy, or Vx ≠ Vy, and nothing else changes; 5xyn and 9xyn with another
n are undefined. -/
def Obligations.RegisterSkips : Prop :=
  (∀ w, fieldOp w = 5 ∨ fieldOp w = 9 → fieldN w ≠ 0 → decode w = .undefinedWord w) ∧
  ∀ (x y : Reg) (s : State),
    exec (.seVxVy x y) s = .next { s with pc := if s.readV x = s.readV y then s.pc + 2 else s.pc } ∧
    exec (.sneVxVy x y) s = .next { s with pc := if s.readV x = s.readV y then s.pc else s.pc + 2 }

/-! ### Register loads, ALU, random -/

/-- 6xkk, 7xkk, 8xy0: Vx becomes kk, Vx + kk modulo 256, or Vy; no other register, VF among them, and no other state
changes. -/
def Obligations.LoadsAndImmediateAdd : Prop :=
  ∀ (x y : Reg) (kk : Byte) (s : State),
    (∃ t, exec (.ldVxKk x kk) s = .next t ∧ t.readV x = kk ∧ regsKept s t [x] ∧ onlyRegs s t) ∧
    (∃ t, exec (.addVxKk x kk) s = .next t ∧ (t.readV x).toNat = ((s.readV x).toNat + kk.toNat) % 256 ∧
      regsKept s t [x] ∧ onlyRegs s t) ∧
    (∃ t, exec (.ldVxVy x y) s = .next t ∧ t.readV x = s.readV y ∧ regsKept s t [x] ∧ onlyRegs s t)

/-- 8xy1, 8xy2, 8xy3: Vx becomes the bitwise OR, AND, XOR of Vx and Vy; nothing else changes. -/
def Obligations.BitwiseOperations : Prop :=
  ∀ (x y : Reg) (s : State),
    (∃ t, exec (.orVxVy x y) s = .next t ∧ t.readV x = s.readV x ||| s.readV y ∧ regsKept s t [x] ∧ onlyRegs s t) ∧
    (∃ t, exec (.andVxVy x y) s = .next t ∧ t.readV x = s.readV x &&& s.readV y ∧ regsKept s t [x] ∧ onlyRegs s t) ∧
    (∃ t, exec (.xorVxVy x y) s = .next t ∧ t.readV x = s.readV x ^^^ s.readV y ∧ regsKept s t [x] ∧ onlyRegs s t)

/-- 8xy4: VF is 0 after, whatever the operands, x = F among them; Vx is the sum modulo 256 when x is not F. The forms with
x or y = F rest on the order of the rule's statements, a reading that is the spec's own (R11, R143; notes/assumptions/12). -/
def Obligations.AddClearsFlag : Prop :=
  ∀ (x y : Reg) (s : State),
    ∃ t, exec (.addVxVy x y) s = .next t ∧ t.readV regF = 0 ∧
      (x ≠ regF → (t.readV x).toNat = ((s.readV x).toNat + (s.readV y).toNat) % 256) ∧
      regsKept s t [x, regF] ∧ onlyRegs s t

/-- 8xy5: VF is 1 exactly when Vx is strictly greater than Vy; then Vx loses Vy modulo 256, with the new VF where x or y
is F. The forms with x or y = F rest on the order of the rule's statements, a reading that is the spec's own (R11, R143;
notes/assumptions/12). -/
def Obligations.SubtractWithFlag : Prop :=
  ∀ (x y : Reg) (s : State),
    ∃ t, exec (.subVxVy x y) s = .next t ∧
      subResults x x y (s.readV x).toNat (s.readV y).toNat (if (s.readV y).toNat < (s.readV x).toNat then 1 else 0) t ∧
      regsKept s t [x, regF] ∧ onlyRegs s t

/-- 8xy7: VF is 1 exactly when Vy is strictly greater than Vx; then Vx becomes Vy minus Vx modulo 256, with the new VF
where x or y is F. The forms with x or y = F rest on the order of the rule's statements, a reading that is the spec's own
(R11, R143; notes/assumptions/12). -/
def Obligations.ReverseSubtractWithFlag : Prop :=
  ∀ (x y : Reg) (s : State),
    ∃ t, exec (.subnVxVy x y) s = .next t ∧
      subResults x y x (s.readV y).toNat (s.readV x).toNat (if (s.readV x).toNat < (s.readV y).toNat then 1 else 0) t ∧
      regsKept s t [x, regF] ∧ onlyRegs s t

/-- 8xy6: VF is bit 0 of the original Vx and Vx is halved; with x = F, VF is 0. The result is the same for every y and Vy
is not read. The form with x = F rests on the order of the rule's statements, a reading that is the spec's own (R11, R143;
notes/assumptions/12). -/
def Obligations.ShiftRightWithFlag : Prop :=
  ∀ (x y : Reg) (s : State),
    ∃ t, exec (.shrVx x y) s = .next t ∧
      (x ≠ regF → (t.readV regF).toNat = (s.readV x).toNat % 2 ∧ (t.readV x).toNat = (s.readV x).toNat / 2) ∧
      (x = regF → t.readV regF = 0) ∧ regsKept s t [x, regF] ∧ onlyRegs s t ∧
      ∀ y', exec (.shrVx x y') s = .next t

/-- 8xyE: VF is 0x80 when bit 7 of the original Vx is set and 0 otherwise, never 1, and Vx is doubled modulo 256; with
x = F, VF is 0. The result is the same for every y. The form with x = F rests on the order of the rule's statements, a
reading that is the spec's own (R11, R143; notes/assumptions/12). -/
def Obligations.ShiftLeftWithFlag : Prop :=
  ∀ (x y : Reg) (s : State),
    ∃ t, exec (.shlVx x y) s = .next t ∧
      (x ≠ regF → t.readV regF = (if 128 ≤ (s.readV x).toNat then 0x80 else 0) ∧
        (t.readV x).toNat = (s.readV x).toNat * 2 % 256) ∧
      (x = regF → t.readV regF = 0) ∧ regsKept s t [x, regF] ∧ onlyRegs s t ∧
      ∀ y', exec (.shlVx x y') s = .next t

/-- Cxkk is the effect `rndWith` with the model's own draw, the free value whose serial number is the draw counter: a byte
of 0 to 254, of which nothing but the bound is known (notes/assumptions/2). Vx becomes the draw AND kk, never 0xFF, and the
draw is used up. -/
def Obligations.RandomMasksADraw : Prop :=
  ∀ (x : Reg) (kk : Byte) (s : State),
    s.randByte.toNat = (Config.freeDraw s.draws).val ∧ s.randByte.toNat ≤ 254 ∧
    ∃ t, exec (.rndVxKk x kk) s = .next t ∧ t = rndWith s.randByte x kk s ∧ t.readV x = s.randByte &&& kk ∧
      (kk = 0xFF → t.readV x ≠ 0xFF) ∧ regsKept s t [x] ∧ t = { s with v := t.v, draws := t.draws } ∧
      t.draws = s.draws + 1

/-- Over all draws of 0 to 254 the results of Cxkk are the submasks of kk, but for 0xFF itself: stated of `rndWith`, the
effect of Cxkk with the draw given. -/
def Obligations.RandomResultsAreTheSubmasks : Prop :=
  ∀ (x : Reg) (kk m : Byte) (s : State),
    (∃ r : Byte, r.toNat ≤ 254 ∧ (rndWith r x kk s).readV x = m) ↔ (m &&& kk = m ∧ ¬(kk = 0xFF ∧ m = 0xFF))

/-! ### Address register and memory -/

/-- Annn, Fx1E, Fx29: I becomes nnn, I + Vx modulo 65536, or 5 times Vx; nothing else changes, VF among it. -/
def Obligations.AddressRegisterOperations : Prop :=
  ∀ (nnn : BitVec 12) (x : Reg) (s : State),
    (∃ t, exec (.ldINnn nnn) s = .next t ∧ t.iReg.toNat = nnn.toNat ∧ t = { s with iReg := t.iReg }) ∧
    (∃ t, exec (.addIVx x) s = .next t ∧ t.iReg.toNat = (s.iReg.toNat + (s.readV x).toNat) % 65536 ∧
      t = { s with iReg := t.iReg }) ∧
    (∃ t, exec (.ldFVx x) s = .next t ∧ t.iReg.toNat = (s.readV x).toNat * 5 ∧ t = { s with iReg := t.iReg })

/-- Fx33: hundreds, tens and units of Vx at I, I + 1, I + 2 and no other byte changed; with any of the three outside
memory it raises `MemoryOutOfBounds` with the lowest such address and writes nothing. -/
def Obligations.BcdStoresThreeDigits : Prop :=
  ∀ (x : Reg) (s : State),
    (4096 ≤ s.iReg.toNat + 2 →
      exec (.ldBVx x) s = .next (s.afterFault (.memoryOutOfBounds (max s.iReg.toNat 4096)))) ∧
    (s.iReg.toNat + 2 < 4096 →
      ∃ t, exec (.ldBVx x) s = .next t ∧ (t.memRead s.iReg.toNat).toNat = (s.readV x).toNat / 100 ∧
        (t.memRead (s.iReg.toNat + 1)).toNat = (s.readV x).toNat / 10 % 10 ∧
        (t.memRead (s.iReg.toNat + 2)).toNat = (s.readV x).toNat % 10 ∧
        bytesKept s t s.iReg.toNat 3 ∧ t = { s with mem := t.mem })

/-- Fx55: V0 to Vx at I to I + x and no other byte changed, I not advanced; with I + x outside memory it raises
`MemoryOutOfBounds` with the lowest offending address and writes nothing. -/
def Obligations.RegisterStore : Prop :=
  ∀ (x : Reg) (s : State),
    (4096 ≤ s.iReg.toNat + x.val →
      exec (.ldMemIVx x) s = .next (s.afterFault (.memoryOutOfBounds (max s.iReg.toNat 4096)))) ∧
    (s.iReg.toNat + x.val < 4096 →
      ∃ t, exec (.ldMemIVx x) s = .next t ∧ (∀ j : Reg, j ≤ x → t.memRead (s.iReg.toNat + j.val) = s.readV j) ∧
        bytesKept s t s.iReg.toNat (x.val + 1) ∧ t = { s with mem := t.mem })

/-- Fx65: V0 to Vx from I to I + x, no other register changed, I not advanced; with I + x outside memory it raises
`MemoryOutOfBounds` with the lowest offending address and loads nothing. -/
def Obligations.RegisterLoad : Prop :=
  ∀ (x : Reg) (s : State),
    (4096 ≤ s.iReg.toNat + x.val →
      exec (.ldVxMemI x) s = .next (s.afterFault (.memoryOutOfBounds (max s.iReg.toNat 4096)))) ∧
    (s.iReg.toNat + x.val < 4096 →
      ∃ t, exec (.ldVxMemI x) s = .next t ∧ (∀ j : Reg, j ≤ x → t.readV j = s.memRead (s.iReg.toNat + j.val)) ∧
        (∀ j : Reg, x < j → t.readV j = s.readV j) ∧ onlyRegs s t)

/-- Fx55 then Fx65 with the same x and I gives V0 to Vx back exactly (V0 to VF: the rest was never written), and changes
nothing more. -/
def Obligations.StoreThenLoadRoundTrips : Prop :=
  ∀ (x : Reg) (s : State), s.iReg.toNat + x.val < 4096 →
    ∃ t, exec (.ldMemIVx x) s = .next t ∧ exec (.ldVxMemI x) t = .next t ∧ ∀ r, t.readV r = s.readV r

/-- A byte stored at an address is what a later fetch there decodes, with nothing in between; so Fx55 over the next
instruction changes what runs. -/
def Obligations.StoresAreSeenByFetch : Prop :=
  (∀ (s : State) (a : Nat) (b : Byte),
    (s.memWrite a b).fetchWord = wordOfBytes (if s.pc.toNat = a then b else s.memRead s.pc.toNat)
      (if s.pc.toNat + 1 = a then b else s.memRead (s.pc.toNat + 1))) ∧
  (∀ (s : State) (x : Reg), s.iReg.toNat + x.val < 4096 → s.iReg = s.pc → 1 ≤ x.val →
    ∃ t, exec (.ldMemIVx x) s = .next t ∧ t.fetchWord = wordOfBytes (s.readV 0) (s.readV 1))

/-- Two memories in the canonical form that read the same everywhere are the same list. -/
def Obligations.CanonicalMemoriesAreEqualData : Prop :=
  ∀ (font : Vector Byte 80) (m m' : Memory), Memory.wf font m = true → Memory.wf font m' = true →
    (∀ a, Memory.read font m a = Memory.read font m' a) → m = m'

/-! ### Display -/

/-- 00E0, the whole word: every cell unset, one `DispClear` issued, nothing else changed. -/
def Obligations.ClearUnsetsEveryCell : Prop :=
  (∀ w, decode w = .instr .cls ↔ w = 0x00E0) ∧
  ∀ s : State, ∃ t, exec .cls s = .next t ∧ (∀ qx qy, t.disp.cell qx qy = false) ∧ t.ports = .dispClear :: s.ports ∧
    t = { s with disp := t.disp, ports := t.ports }

/-- Dxyn within memory and the grid: each cell covered by a set sprite bit is toggled exactly once and no other cell is
changed; VF is 1 exactly when a covered cell was set before; the new requests are one `DispToggle` for each set bit, rows
outer and columns inner, each with the bit answered; only VF, the display and the record of requests change. That column c
of a row is bit 7 - c is presumed by the spec (notes/assumptions/13); the record of requests is the model's own
(notes/assumptions/6). -/
def Obligations.DrawXorsTheSprite : Prop :=
  ∀ (x y : Reg) (n : Nat) (s : State), n < 16 → (n = 0 ∨ s.iReg.toNat + n ≤ 4096) → s.spriteFits x y n →
    ∃ t, exec (.drwVxVyN x y n) s = .next t ∧
      (∀ qx qy, s.spriteCovers x y n qx qy → t.disp.cell qx qy = !s.disp.cell qx qy) ∧
      (∀ qx qy, ¬s.spriteCovers x y n qx qy → t.disp.cell qx qy = s.disp.cell qx qy) ∧
      ((∃ qx qy, s.spriteCovers x y n qx qy ∧ s.disp.cell qx qy = true) → t.readV regF = 1) ∧
      (¬(∃ qx qy, s.spriteCovers x y n qx qy ∧ s.disp.cell qx qy = true) → t.readV regF = 0) ∧
      regsKept s t [regF] ∧ t = { s with v := t.v, disp := t.disp, ports := t.ports } ∧
      t.ports = (s.spriteRequests x y n).reverse ++ s.ports

/-- Dxyn outside its bounds: `MemoryOutOfBounds` with the lowest offending address, before any grid check; then
`DrawOutOfGrid` with the raw coordinates of the first set bit, in row-major order, whose corrected position is off the
grid. Nothing is drawn. That column c of a row is bit 7 - c is presumed by the spec (notes/assumptions/13). -/
def Obligations.DrawErrors : Prop :=
  ∀ (x y : Reg) (n : Nat) (s : State),
    (0 < n → 4096 < s.iReg.toNat + n →
      exec (.drwVxVyN x y n) s = .next (s.afterFault (.memoryOutOfBounds (max s.iReg.toNat 4096)))) ∧
    (∀ r c, s.iReg.toNat + n ≤ 4096 → r < n → c < 8 → (s.memRead (s.iReg.toNat + r)).getLsbD (7 - c) = true →
      inGrid ((s.readV x).toNat + c) ((s.readV y).toNat + r) = false →
      (∀ r', r' < n → ∀ c', c' < 8 → (r' < r ∨ r' = r ∧ c' < c) →
        (s.memRead (s.iReg.toNat + r')).getLsbD (7 - c') = true →
        inGrid ((s.readV x).toNat + c') ((s.readV y).toNat + r') = true) →
      exec (.drwVxVyN x y n) s = .next (s.afterFault (.drawOutOfGrid ((s.readV x).toNat + c) ((s.readV y).toNat + r))))

/-- The correction is one subtraction, made only above the dimension, on each axis; and the raw coordinates that it
leaves in the grid are those of R167's table. -/
def Obligations.CoordinateCorrection : Prop :=
  (∀ px : Nat, (px ≤ 64 → corr px 64 = px) ∧ (64 < px → corr px 64 + 64 = px)) ∧
  (∀ py : Nat, (py ≤ 32 → corr py 32 = py) ∧ (32 < py → corr py 32 + 32 = py)) ∧
  (∀ px py : Nat,
    inGrid px py = true ↔ (px ≤ 63 ∨ 65 ≤ px ∧ px ≤ 127) ∧ (py ≤ 31 ∨ 33 ≤ py ∧ py ≤ 63)) ∧
  (∀ px py : Nat, inGrid px py = true → (corr px 64 = 0 → px = 0) ∧ (corr py 32 = 0 → py = 0))

/-- Drawing the same sprite at the same place twice gives the display back as it was, and the second draw's VF is 1
exactly when a cell it covers was unset before the first, so set between the two. (The position must not be VF's, which
the first draw overwrites; `DrawXorsTheSprite` says what each single draw does there.) Which cells are covered rests on
the bit order that the spec presumes (notes/assumptions/13). -/
def Obligations.DrawingTwiceRestoresTheDisplay : Prop :=
  ∀ (x y : Reg) (n : Nat) (s : State), n < 16 → x ≠ regF → y ≠ regF → (n = 0 ∨ s.iReg.toNat + n ≤ 4096) →
    s.spriteFits x y n →
    ∃ t u, exec (.drwVxVyN x y n) s = .next t ∧ exec (.drwVxVyN x y n) t = .next u ∧ u.disp = s.disp ∧
      ((∃ qx qy, s.spriteCovers x y n qx qy ∧ s.disp.cell qx qy = false) → u.readV regF = 1) ∧
      (¬(∃ qx qy, s.spriteCovers x y n qx qy ∧ s.disp.cell qx qy = false) → u.readV regF = 0)

/-! ### Keys and timers -/

/-- Ex9E, ExA1: with Vx a key number, PC moves 2 further exactly when that key is held, or is not held; with Vx above 15
`KeyIndexOutOfRange` is raised. Nothing else changes. Their low bytes are 0x9E and 0xA1. -/
def Obligations.KeySkips : Prop :=
  (∀ w, fieldOp w = 0xE → fieldKk w = 0x9E → decode w = .instr (.skpVx (fieldX w))) ∧
  (∀ w, fieldOp w = 0xE → fieldKk w = 0xA1 → decode w = .instr (.sknpVx (fieldX w))) ∧
  ∀ (x : Reg) (s : State),
    (15 < (s.readV x).toNat →
      exec (.skpVx x) s = .next (s.afterFault (.keyIndexOutOfRange (s.readV x))) ∧
      exec (.sknpVx x) s = .next (s.afterFault (.keyIndexOutOfRange (s.readV x)))) ∧
    (∀ k : Key, (s.readV x).toNat = k.val →
      exec (.skpVx x) s = .next { s with pc := if s.keyPressed k = true then s.pc + 2 else s.pc } ∧
      exec (.sknpVx x) s = .next { s with pc := if s.keyPressed k = true then s.pc else s.pc + 2 })

/-- Fx0A: the latch is set and x kept for the delivery; no register and nothing else changes. From then on the slots left in
the batch, however many, execute nothing, and the end of that tick moves no timer. -/
def Obligations.KeyWaitStopsTheBatch : Prop :=
  ∀ (x : Reg) (s : State),
    ∃ t, exec (.ldVxK x) s = .next t ∧ t = { s with wait := true, waitReg := x } ∧
      (s.fault = none → ∀ k, ∃ u, runSlots k t = .next u ∧ u = { t with slot := t.slot + k } ∧
        u.tickEnd.dt = s.dt ∧ u.tickEnd.st = s.st)

/-- `KeyDown(k)`: the key's level is set; if the machine waits and no fault is latched, the number k is written to the
register of the Fx0A and the latch cleared; otherwise CORE is unchanged. -/
def Obligations.KeyDownDelivers : Prop :=
  ∀ (k : Key) (s : State),
    (s.keyDown k).keyPressed k = true ∧ (∀ k', k' ≠ k → (s.keyDown k).keyPressed k' = s.keyPressed k') ∧
    (s.fault = none → s.wait = true →
      ((s.keyDown k).readV s.waitReg).toNat = k.val ∧ regsKept s (s.keyDown k) [s.waitReg] ∧
      s.keyDown k = { s with v := (s.keyDown k).v, wait := false, keys := (s.keyDown k).keys }) ∧
    (s.fault ≠ none ∨ s.wait = false → s.keyDown k = { s with keys := (s.keyDown k).keys })

/-- Fx07, Fx15, Fx18: Vx becomes DT, DT becomes Vx, ST becomes Vx; nothing else changes. -/
def Obligations.TimerTransfers : Prop :=
  ∀ (x : Reg) (s : State),
    (∃ t, exec (.ldVxDt x) s = .next t ∧ t.readV x = s.dt ∧ regsKept s t [x] ∧ onlyRegs s t) ∧
    exec (.ldDtVx x) s = .next { s with dt := s.readV x } ∧
    exec (.ldStVx x) s = .next { s with st := s.readV x }

/-! ### All instructions -/

/-- Each instruction answers a next state in every state: none ends in a stop. Where it raises, the next state is the one
with the fault latched, as the model reads R200 (notes/assumptions/11). -/
def Obligations.EveryInstructionAnswersNext : Prop :=
  ∀ (i : Instr) (s : State), ∃ t, exec i s = .next t

/-- Faults are precise: where an instruction raises, nothing but the latch and the place in the tick has changed, and the
error is one that R201 gives that instruction. -/
def Obligations.FaultsArePrecise : Prop :=
  ∀ (i : Instr) (s t : State), s.fault = none → exec i s = .next t → t.fault ≠ none →
    ∃ e, t = s.afterFault e ∧ i.mayRaise e

/-- Which state each instruction may change: R39's table, as a frame over all instructions. -/
def Obligations.InstructionFrames : Prop :=
  ∀ (i : Instr) (s t : State), exec i s = .next t →
    regsKept s t i.regsWritten ∧ (i.writesPc = false → t.pc = s.pc) ∧ (i.writesI = false → t.iReg = s.iReg) ∧
    (i.writesStack = false → t.stack = s.stack) ∧ ((∀ x, i ≠ .ldDtVx x) → t.dt = s.dt) ∧
    ((∀ x, i ≠ .ldStVx x) → t.st = s.st) ∧ ((∀ x, i ≠ .ldVxK x) → t.wait = s.wait ∧ t.waitReg = s.waitReg) ∧
    (i.writesDisplay = false → t.disp = s.disp ∧ t.ports = s.ports) ∧ ((∀ x kk, i ≠ .rndVxKk x kk) → t.draws = s.draws) ∧
    t.tone = s.tone ∧ t.keys = s.keys ∧ t.cfg = s.cfg ∧ t.inbox = s.inbox

/-- Memory under all instructions: an instruction that stores nothing leaves every byte; Fx33 leaves every byte but the
three at I, Fx55 every byte but the x + 1 at I. -/
def Obligations.InstructionsKeepOtherBytes : Prop :=
  (∀ (i : Instr) (s t : State), i.writesMemory = false → exec i s = .next t → ∀ a, t.memRead a = s.memRead a) ∧
  (∀ (x : Reg) (s t : State), exec (.ldBVx x) s = .next t → bytesKept s t s.base 3) ∧
  (∀ (x : Reg) (s t : State), exec (.ldMemIVx x) s = .next t → bytesKept s t s.base (x.val + 1))

/-- N nested calls followed by N returns leave the state exactly as it was, for N up to the room left on the stack. -/
def Obligations.NestedCallsAndReturnsRestore : Prop :=
  ∀ (targets : List (BitVec 12)) (s : State),
    (∀ d, s.cfg.stackDepth = some d → s.stack.length + targets.length ≤ d) →
    runInstrs (targets.map .callNnn ++ List.replicate targets.length .ret) s = .next s

/-! ### The step -/

/-- A step that fetches runs the instruction its two bytes at PC decode to, big-endian, on the state with PC advanced by
2 and the slot used up; where the step begins a tick, the `Tick` is taken off the waiting transactions. -/
def Obligations.StepRunsTheDecodedInstruction : Prop :=
  ∀ (i : Instr) (s : State), s.fetches → s.pc.toNat ≤ 0xFFE →
    decodeBytes (s.memRead s.pc.toNat) (s.memRead (s.pc.toNat + 1)) = .instr i →
    step s = exec i { s.inTick with pc := s.pc + 2, slot := s.slot + 1 }

/-- A step that fetches a word no row selects raises `DecodeError` with that word and its address; PC has advanced. -/
def Obligations.UndefinedWordRaisesDecodeError : Prop :=
  ∀ (w : Word) (s : State), s.fetches → s.pc.toNat ≤ 0xFFE →
    decodeBytes (s.memRead s.pc.toNat) (s.memRead (s.pc.toNat + 1)) = .undefinedWord w →
    w.toNat = (s.memRead s.pc.toNat).toNat * 256 + (s.memRead (s.pc.toNat + 1)).toNat ∧
    step s = .next { s.inTick with pc := s.pc + 2, slot := 0, fault := some ⟨.decodeError w, s.pc⟩ }

/-- A fetch with either byte outside memory raises `MemoryOutOfBounds` with the lower offending address; PC stays. -/
def Obligations.FetchOutOfBoundsKeepsPc : Prop :=
  ∀ s : State, s.fetches → 0xFFE < s.pc.toNat →
    step s = .next { s.inTick with slot := 0, fault := some ⟨.memoryOutOfBounds (max s.pc.toNat 4096), s.pc⟩ }

/-- The instruction the host places is the one the next step runs, from every state. (The placing is the model's own
interface, notes/assumptions/9.) -/
def Obligations.PlacedInstructionRunsNext : Prop :=
  ∀ (i : Instr) (s : State), i.wellFormed = true →
    decodeTableWord 16 (encode i).toNat = some i ∧
    step (s.withFetchWord 16 (encode i).toNat) = exec i (s.withFetchWord 16 (encode i).toNat).inTick.fetched

/-- With a fault latched, a step does nothing but take the oldest waiting transaction off the model's own list
(notes/assumptions/5): a `Tick` and a `Load` change nothing else, `KeyDown` and `KeyUp` the key levels alone. Where none
waits, the step is the idle one that gives the same state (notes/assumptions/5 and 11). As transactions: a whole tick
changes nothing and answers the record, `Load` writes nothing and answers it, and the keys change their levels alone. -/
def Obligations.HaltedMachineIsStuck : Prop :=
  ∀ (s : State) (r : FaultRecord) (rest : List HostEvent) (bytes : List Byte) (k : Key), s.fault = some r →
    (s.inbox = [] → step s = .next s) ∧ (s.inbox = .tick :: rest → step s = .next { s with inbox := rest }) ∧
    (s.inbox = .load bytes :: rest → step s = .next { s with inbox := rest }) ∧
    (s.inbox = .keyDown k :: rest → step s = .next { s with inbox := rest, keys := s.keys.set k.val true }) ∧
    (s.inbox = .keyUp k :: rest → step s = .next { s with inbox := rest, keys := s.keys.set k.val false }) ∧
    tick s = .next s ∧ s.tickAnswer = some r ∧
    s.load bytes = (s, .faulted r) ∧ s.keyDown k = { s with keys := s.keys.set k.val true } ∧
    s.keyUp k = { s with keys := s.keys.set k.val false }

/-- A latched fault stays, the same record, through every step but a `Reset`, the next waiting transaction. -/
def Obligations.FaultLatchIsSticky : Prop :=
  ∀ (s t : State) (r : FaultRecord), s.fault = some r → step s = .next t → s.inbox.head? ≠ some .reset →
    t.fault = some r

/-- Run states change only as R217 lists: into waiting by Fx0A, whose x WAITREG then holds and keeps while the wait lasts;
out of waiting by `KeyDown` or `Reset` alone, to running; out of halted by `Reset` alone. -/
def Obligations.RunStatesChangeAsListed : Prop :=
  ∀ s t : State, step s = .next t →
    (s.runState = .running → t.runState = .waiting →
      ∃ x, decode s.fetchWord = .instr (.ldVxK x) ∧ t.waitReg = x) ∧
    (s.runState = .waiting → (t.runState = .waiting ∧ t.waitReg = s.waitReg) ∨
      (t.runState = .running ∧ (s.inbox.head? = some .reset ∨ ∃ k, s.inbox.head? = some (.keyDown k)))) ∧
    (s.runState = .halted → t.runState = .halted ∨ (t.runState = .running ∧ s.inbox.head? = some .reset))

/-- Inside a tick no host transaction takes effect: the waiting ones and the key levels stay as they are. -/
def Obligations.TicksAreNotInterrupted : Prop :=
  ∀ s t : State, s.fault = none → s.slot ≠ 0 → step s = .next t → t.inbox = s.inbox ∧ t.keys = s.keys

/-- Each state has a next state: the machine never stops outside the model. Between ticks with no transaction waiting it
is the same state, and where a slot raises it is the one with the fault latched (the model's readings,
notes/assumptions/5 and 11). -/
def Obligations.EveryStepAnswersNext : Prop :=
  ∀ s : State, ∃ t, step s = .next t

/-- The invariant is kept by every step, from every state that has it. -/
def Obligations.StepKeepsInvariant : Prop :=
  ∀ s t : State, s.Inv → step s = .next t → t.Inv

/-- The invariant holds after reset. -/
def Obligations.ResetHasInvariant : Prop := State.reset.Inv

/-! ### The tick -/

/-- The timer step, tone step and flush that end a tick: each timer loses 1 down to 0 unless the machine waits; the tone
is started exactly when ST, as the timer step left it, is above 0, and stopped otherwise; then the display is flushed.
Nothing else changes. -/
def Obligations.TickEndSteps : Prop :=
  ∀ s : State,
    (s.wait = false → s.tickEnd.dt.toNat = s.dt.toNat - 1 ∧ s.tickEnd.st.toNat = s.st.toNat - 1) ∧
    (s.wait = true → s.tickEnd.dt = s.dt ∧ s.tickEnd.st = s.st) ∧
    (0 < s.tickEnd.st.toNat → s.tickEnd.tone = true ∧ s.tickEnd.ports = .dispFlush :: .toneStart s.cfg.toneHz :: s.ports) ∧
    (s.tickEnd.st.toNat = 0 → s.tickEnd.tone = false ∧ s.tickEnd.ports = .dispFlush :: .toneStop :: s.ports) ∧
    s.tickEnd = { s with dt := s.tickEnd.dt, st := s.tickEnd.st, tone := s.tickEnd.tone, ports := s.tickEnd.ports, slot := 0 }

/-- n timer steps of a machine that does not wait take n from each timer, with a floor at 0; of one that waits, none. -/
def Obligations.TimersCountTicks : Prop :=
  ∀ (n : Nat) (s : State),
    (s.wait = false → (timerSteps n s).dt.toNat = s.dt.toNat - n ∧ (timerSteps n s).st.toNat = s.st.toNat - n) ∧
    (s.wait = true → timerSteps n s = s)

/-- A tick that begins waiting runs no instruction and moves no timer, and issues exactly one tone request, by ST, and one
flush. -/
def Obligations.WaitingTickIsIdle : Prop :=
  ∀ s : State, s.fault = none → s.wait = true → s.slot = 0 →
    tick s = .next { s with tone := decide (0 < s.st.toNat)
                            ports := .dispFlush :: (if 0 < s.st.toNat then .toneStart s.cfg.toneHz else .toneStop) :: s.ports }

/-- The tick of R90 is its steps: from between ticks with a `Tick` as the next transaction, at most IPT + 1 steps of the
machine give exactly the tick, ended early by a raise or not; and IPT + 1 steps give it exactly where no other transaction
waits. The grain of a step and the list of waiting transactions are the model's own (notes/assumptions/4 and 5). -/
def Obligations.TickIsItsSteps : Prop :=
  ∀ (s : State) (rest : List HostEvent), s.slot = 0 → s.inbox = .tick :: rest →
    (∃ k, 0 < k ∧ k ≤ s.cfg.ipt + 1 ∧ Sys2Proof.core.run k s = tick { s with inbox := rest }) ∧
    (rest = [] → Sys2Proof.core.run (s.cfg.ipt + 1) s = tick { s with inbox := rest })

/-! ### Reset and load -/

/-- What `Reset` leaves, from every state: each value of R37's table, and what R230 says it does not reset or issue: the
key levels, an input, and any port request (the record of requests is the model's own, notes/assumptions/6). The
parameters, which are no state of CORE (R38) and which the model carries in its state (notes/assumptions/1), are kept. -/
def Obligations.ResetValues : Prop :=
  ∀ s : State,
    (∀ r, s.resetAll.readV r = 0) ∧ s.resetAll.iReg = 0 ∧ s.resetAll.pc = 0x200 ∧ s.resetAll.stack = [] ∧
    s.resetAll.dt = 0 ∧ s.resetAll.st = 0 ∧ s.resetAll.wait = false ∧ s.resetAll.fault = none ∧
    (∀ (a : Nat) (h : a < 80), s.resetAll.memRead a = s.cfg.font[a]) ∧
    (∀ a, 80 ≤ a → a < 4096 → s.resetAll.memRead a = 0) ∧ (∀ qx qy, s.resetAll.disp.cell qx qy = false) ∧
    s.resetAll.tone = false ∧ s.resetAll.keys = s.keys ∧ s.resetAll.ports = s.ports ∧ s.resetAll.cfg = s.cfg

/-- Nothing executes until the host issues a `Tick`: from between ticks, a run of k steps with no `Tick` in the list is the
first k waiting transactions, one after another, and where no `Reset` is among those waiting it fetches nothing, moves no
timer and drives no port: only a load's memory, the key levels and a key's delivery show. With an empty list it leaves the
state as it is. A `Tick` that comes after `Reset` with no `Load` before it raises `DecodeError(0x0000)` at 0x200. The list of
waiting transactions is the model's own (notes/assumptions/5). -/
def Obligations.NothingExecutesUntilTick : Prop :=
  (∀ (k : Nat) (s : State), s.betweenTicks = true → HostEvent.tick ∉ s.inbox →
    ∃ t, Sys2Proof.core.run k s = .next t ∧
      t = (s.inbox.take k).foldl State.transact { s with inbox := s.inbox.drop k } ∧
      (HostEvent.reset ∉ s.inbox →
        t = { s with v := t.v, wait := t.wait, mem := t.mem, keys := t.keys, inbox := s.inbox.drop k }) ∧
      (s.inbox = [] → t = s)) ∧
  (∀ (s : State) (rest : List HostEvent), 0 < s.cfg.ipt → s.inbox = .tick :: rest →
    step s.resetAll = .next { s.resetAll with inbox := rest, pc := 0x202, fault := some ⟨.decodeError 0, 0x200⟩ })

/-- `Load(bytes)`: with no fault latched, up to 3584 bytes stand at 0x200 upwards and nothing else has changed, and more
are refused whole; with a fault latched, nothing is written and the record is the answer. -/
def Obligations.LoadPlacesTheImage : Prop :=
  ∀ (bytes : List Byte) (s : State),
    (s.fault = none → bytes.length ≤ 3584 → ∃ t, s.load bytes = (t, .ok) ∧
      (∀ (j : Nat) (h : j < bytes.length), t.memRead (0x200 + j) = bytes[j]) ∧ bytesKept s t 0x200 bytes.length ∧
      t = { s with mem := t.mem }) ∧
    (s.fault = none → 3584 < bytes.length → s.load bytes = (s, .loadTooLarge)) ∧
    (∀ r, s.fault = some r → s.load bytes = (s, .faulted r))

/-- Between ticks the oldest waiting transaction is what a step does; a `Tick` that finds a fault latched changes nothing.
The list of waiting transactions is the model's own (notes/assumptions/5). -/
def Obligations.TransactionsRunBetweenTicks : Prop :=
  ∀ (s : State) (rest : List HostEvent) (bytes : List Byte) (k : Key), s.betweenTicks = true →
    (s.inbox = .reset :: rest → step s = .next { s with inbox := rest }.resetAll) ∧
    (s.inbox = .load bytes :: rest → step s = .next ({ s with inbox := rest }.load bytes).1) ∧
    (s.inbox = .keyDown k :: rest → step s = .next ({ s with inbox := rest }.keyDown k)) ∧
    (s.inbox = .keyUp k :: rest → step s = .next { s with inbox := rest, keys := s.keys.set k.val false }) ∧
    (s.inbox = .tick :: rest → s.fault = none → 0 < s.cfg.ipt → step s = slotStep { s with inbox := rest }) ∧
    (s.inbox = .tick :: rest → s.fault ≠ none → step s = .next { s with inbox := rest })

/-- The first `Tick` after `Reset` fetches at 0x200, whatever loads and key transactions come between: its first step runs
the instruction that the bytes at 0x200 and 0x201 decode to, with PC = 0x202, or raises `DecodeError` for their word with the
address 0x200. With one accepted `Load` between, those bytes are the image's. The list of waiting transactions and the slot
count are the model's own (notes/assumptions/4 and 5). -/
def Obligations.FirstTickFetchesAtLoadBase : Prop :=
  ∀ (es rest : List HostEvent) (s : State), s.betweenTicks = true → 0 < s.cfg.ipt → HostEvent.tick ∉ es →
    HostEvent.reset ∉ es → s.inbox = .reset :: (es ++ .tick :: rest) →
    ∃ t, Sys2Proof.core.run (es.length + 1) s = .next t ∧ t.pc = 0x200 ∧ t.inbox = .tick :: rest ∧
      (∀ i, decodeBytes (t.memRead 0x200) (t.memRead 0x201) = .instr i →
        step t = exec i { t with pc := 0x202, slot := 1, inbox := rest }) ∧
      (∀ w, decodeBytes (t.memRead 0x200) (t.memRead 0x201) = .undefinedWord w →
        step t = .next { t with pc := 0x202, inbox := rest, fault := some ⟨.decodeError w, 0x200⟩ }) ∧
      (∀ bytes : List Byte, es = [.load bytes] → bytes.length ≤ 3584 →
        ∀ (j : Nat) (h : j < bytes.length), t.memRead (0x200 + j) = bytes[j])
end

