-- ==== Sys2Proof/Laws/Decode.lean ====
section
/-! SUPPORT. Words, fields and rows of the opcode map as arithmetic on natural numbers. -/

namespace Sys2Proof

variable (w : Word)

theorem fieldOp_eq : fieldOp w = w.toNat / 4096 := by
  have := w.isLt
  simp [fieldOp, Nat.shiftRight_eq_div_pow]; omega

theorem fieldX_val : (fieldX w).val = w.toNat / 256 % 16 := by
  simp [fieldX, Nat.shiftRight_eq_div_pow]

theorem fieldY_val : (fieldY w).val = w.toNat / 16 % 16 := by
  simp [fieldY, Nat.shiftRight_eq_div_pow]

theorem fieldN_eq : fieldN w = w.toNat % 16 := by simp [fieldN]

theorem fieldKk_toNat : (fieldKk w).toNat = w.toNat % 256 := by simp [fieldKk]

theorem fieldNnn_toNat : (fieldNnn w).toNat = w.toNat % 4096 := by simp [fieldNnn]

theorem highByte_toNat : (highByte w).toNat = w.toNat / 256 := by
  have := w.isLt
  simp [highByte, Nat.shiftRight_eq_div_pow]; omega

theorem lowByte_toNat : (lowByte w).toNat = w.toNat % 256 := by simp [lowByte]

theorem wordOfBytes_toNat (b0 b1 : Byte) : (wordOfBytes b0 b1).toNat = b0.toNat * 256 + b1.toNat := by
  have := b0.isLt
  have := b1.isLt
  simp [wordOfBytes]; omega

/-- The two bytes of a word make the word again. -/
@[simp] theorem wordOfBytes_bytes : wordOfBytes (highByte w) (lowByte w) = w := by
  apply BitVec.eq_of_toNat_eq
  rw [wordOfBytes_toNat, highByte_toNat, lowByte_toNat]
  omega

@[simp] theorem highByte_wordOfBytes (b0 b1 : Byte) : highByte (wordOfBytes b0 b1) = b0 := by
  apply BitVec.eq_of_toNat_eq
  have := b1.isLt
  rw [highByte_toNat, wordOfBytes_toNat]
  omega

@[simp] theorem lowByte_wordOfBytes (b0 b1 : Byte) : lowByte (wordOfBytes b0 b1) = b1 := by
  apply BitVec.eq_of_toNat_eq
  have := b1.isLt
  rw [lowByte_toNat, wordOfBytes_toNat]
  omega

theorem wordNnn_toNat {op : Nat} (h : op < 16) (nnn : BitVec 12) : (wordNnn op nnn).toNat = op * 4096 + nnn.toNat := by
  have := nnn.isLt
  simp [wordNnn]; omega

theorem wordXkk_toNat {op : Nat} (h : op < 16) (x : Reg) (kk : Byte) :
    (wordXkk op x kk).toNat = op * 4096 + x.val * 256 + kk.toNat := by
  have := x.isLt
  have := kk.isLt
  simp [wordXkk]; omega

theorem wordXyn_toNat {op n : Nat} (h : op < 16) (x y : Reg) (hn : n < 16) :
    (wordXyn op x y n).toNat = op * 4096 + x.val * 256 + y.val * 16 + n := by
  have := x.isLt
  have := y.isLt
  simp [wordXyn]; omega

/-! ### The fields of a word the encoder lays out -/

section
variable {op n : Nat} (x y : Reg) (kk : Byte) (nnn : BitVec 12)

theorem fieldOp_wordNnn (h : op < 16) : fieldOp (wordNnn op nnn) = op := by
  have := nnn.isLt
  rw [fieldOp_eq, wordNnn_toNat h]; omega

theorem fieldNnn_wordNnn (h : op < 16) : fieldNnn (wordNnn op nnn) = nnn := by
  have := nnn.isLt
  apply BitVec.eq_of_toNat_eq
  rw [fieldNnn_toNat, wordNnn_toNat h]; omega

theorem fieldOp_wordXkk (h : op < 16) : fieldOp (wordXkk op x kk) = op := by
  have := x.isLt
  have := kk.isLt
  rw [fieldOp_eq, wordXkk_toNat h]; omega

theorem fieldX_wordXkk (h : op < 16) : fieldX (wordXkk op x kk) = x := by
  have := x.isLt
  have := kk.isLt
  apply Fin.ext
  rw [fieldX_val, wordXkk_toNat h]; omega

theorem fieldKk_wordXkk (h : op < 16) : fieldKk (wordXkk op x kk) = kk := by
  have := kk.isLt
  apply BitVec.eq_of_toNat_eq
  rw [fieldKk_toNat, wordXkk_toNat h]; omega

theorem fieldOp_wordXyn (h : op < 16) (hn : n < 16) : fieldOp (wordXyn op x y n) = op := by
  have := x.isLt
  have := y.isLt
  rw [fieldOp_eq, wordXyn_toNat h x y hn]; omega

theorem fieldX_wordXyn (h : op < 16) (hn : n < 16) : fieldX (wordXyn op x y n) = x := by
  have := x.isLt
  have := y.isLt
  apply Fin.ext
  rw [fieldX_val, wordXyn_toNat h x y hn]; omega

theorem fieldY_wordXyn (h : op < 16) (hn : n < 16) : fieldY (wordXyn op x y n) = y := by
  have := y.isLt
  apply Fin.ext
  rw [fieldY_val, wordXyn_toNat h x y hn]; omega

theorem fieldN_wordXyn (h : op < 16) (hn : n < 16) : fieldN (wordXyn op x y n) = n := by
  rw [fieldN_eq, wordXyn_toNat h x y hn]; omega

end

/-- A mask that keeps the top nibble and the low `k` bits, as arithmetic. -/
theorem and_topNibble_low (n k : Nat) (hn : n < 65536) (hk : k ≤ 12) :
    n &&& (2 ^ 12 * 15 + (2 ^ k - 1)) = 2 ^ 12 * (n / 4096) + n % 2 ^ k := by
  have h1 : 2 ^ k ≤ 2 ^ 12 := Nat.pow_le_pow_right (by omega) hk
  have h2 : n % 2 ^ k < 2 ^ 12 := Nat.lt_of_lt_of_le (Nat.mod_lt _ (Nat.two_pow_pos k)) h1
  have h3 : 2 ^ k - 1 < 2 ^ 12 := by have := Nat.two_pow_pos k; omega
  apply Nat.eq_of_testBit_eq
  intro i
  rw [Nat.testBit_and, Nat.testBit_two_pow_mul_add _ h3, Nat.testBit_two_pow_mul_add _ h2]
  by_cases hi : i < 12
  · simp [hi, Nat.testBit_mod_two_pow, Nat.testBit_two_pow_sub_one, Bool.and_comm]
  · have h15 : Nat.testBit 15 (i - 12) = decide (i - 12 < 4) := Nat.testBit_two_pow_sub_one 4 _
    have hd : (n / 4096).testBit (i - 12) = n.testBit i := by
      rw [show (4096 : Nat) = 2 ^ 12 by rfl, Nat.testBit_div_two_pow, show i - 12 + 12 = i by omega]
    simp only [hi, if_false, h15, hd]
    by_cases h4 : i - 12 < 4
    · simp [h4]
    · have : n.testBit i = false :=
        Nat.testBit_lt_two_pow (Nat.lt_of_lt_of_le hn (Nat.pow_le_pow_right (n := 2) (i := 16) (by omega) (by omega)))
      simp [this]

/-- When a row whose mask keeps the top nibble and the low `k` bits selects a word. -/
theorem selects_iff (k : Nat) (hk : k ≤ 12) (m b : Word) (hm : m.toNat = 2 ^ 12 * 15 + (2 ^ k - 1)) :
    (OpcodeRow.mk m b).selects w = true ↔ 4096 * (w.toNat / 4096) + w.toNat % 2 ^ k = b.toNat := by
  have := and_topNibble_low w.toNat k w.isLt hk
  simp only [OpcodeRow.selects, decide_eq_true_eq, ← BitVec.toNat_inj, BitVec.toNat_and, hm, this]
  norm_num

theorem selects_F000 (b : Word) :
    (OpcodeRow.mk 0xF000 b).selects w = true ↔ 4096 * (w.toNat / 4096) = b.toNat := by
  simpa [Nat.mod_one] using selects_iff w 0 (by omega) 0xF000 b rfl

theorem selects_F00F (b : Word) :
    (OpcodeRow.mk 0xF00F b).selects w = true ↔ 4096 * (w.toNat / 4096) + w.toNat % 16 = b.toNat :=
  selects_iff w 4 (by omega) 0xF00F b rfl

theorem selects_F0FF (b : Word) :
    (OpcodeRow.mk 0xF0FF b).selects w = true ↔ 4096 * (w.toNat / 4096) + w.toNat % 256 = b.toNat :=
  selects_iff w 8 (by omega) 0xF0FF b rfl

theorem selects_FFFF (b : Word) : (OpcodeRow.mk 0xFFFF b).selects w = true ↔ w = b := by
  rw [selects_iff w 12 (by omega) 0xFFFF b rfl, ← BitVec.toNat_inj]
  omega

end Sys2Proof
end

