-- ==== Sys2Proof/Laws/State.lean ====
section
/-! SUPPORT. One lemma per field per named update of the state, true by unfolding. -/

namespace Sys2Proof.Machine

variable (s : State)

/-! ### writeV -/

@[simp] theorem writeV_v (r : Reg) (b : Byte) : (s.writeV r b).v = s.v.set r.val b := rfl
@[simp] theorem writeV_iReg (r : Reg) (b : Byte) : (s.writeV r b).iReg = s.iReg := rfl
@[simp] theorem writeV_pc (r : Reg) (b : Byte) : (s.writeV r b).pc = s.pc := rfl
@[simp] theorem writeV_stack (r : Reg) (b : Byte) : (s.writeV r b).stack = s.stack := rfl
@[simp] theorem writeV_dt (r : Reg) (b : Byte) : (s.writeV r b).dt = s.dt := rfl
@[simp] theorem writeV_st (r : Reg) (b : Byte) : (s.writeV r b).st = s.st := rfl
@[simp] theorem writeV_wait (r : Reg) (b : Byte) : (s.writeV r b).wait = s.wait := rfl
@[simp] theorem writeV_waitReg (r : Reg) (b : Byte) : (s.writeV r b).waitReg = s.waitReg := rfl
@[simp] theorem writeV_fault (r : Reg) (b : Byte) : (s.writeV r b).fault = s.fault := rfl
@[simp] theorem writeV_mem (r : Reg) (b : Byte) : (s.writeV r b).mem = s.mem := rfl
@[simp] theorem writeV_disp (r : Reg) (b : Byte) : (s.writeV r b).disp = s.disp := rfl
@[simp] theorem writeV_tone (r : Reg) (b : Byte) : (s.writeV r b).tone = s.tone := rfl
@[simp] theorem writeV_keys (r : Reg) (b : Byte) : (s.writeV r b).keys = s.keys := rfl
@[simp] theorem writeV_cfg (r : Reg) (b : Byte) : (s.writeV r b).cfg = s.cfg := rfl
@[simp] theorem writeV_slot (r : Reg) (b : Byte) : (s.writeV r b).slot = s.slot := rfl
@[simp] theorem writeV_inbox (r : Reg) (b : Byte) : (s.writeV r b).inbox = s.inbox := rfl
@[simp] theorem writeV_draws (r : Reg) (b : Byte) : (s.writeV r b).draws = s.draws := rfl
@[simp] theorem writeV_ports (r : Reg) (b : Byte) : (s.writeV r b).ports = s.ports := rfl

/-! ### memWrite -/

@[simp] theorem memWrite_v (a : Nat) (b : Byte) : (s.memWrite a b).v = s.v := rfl
@[simp] theorem memWrite_iReg (a : Nat) (b : Byte) : (s.memWrite a b).iReg = s.iReg := rfl
@[simp] theorem memWrite_pc (a : Nat) (b : Byte) : (s.memWrite a b).pc = s.pc := rfl
@[simp] theorem memWrite_stack (a : Nat) (b : Byte) : (s.memWrite a b).stack = s.stack := rfl
@[simp] theorem memWrite_dt (a : Nat) (b : Byte) : (s.memWrite a b).dt = s.dt := rfl
@[simp] theorem memWrite_st (a : Nat) (b : Byte) : (s.memWrite a b).st = s.st := rfl
@[simp] theorem memWrite_wait (a : Nat) (b : Byte) : (s.memWrite a b).wait = s.wait := rfl
@[simp] theorem memWrite_waitReg (a : Nat) (b : Byte) : (s.memWrite a b).waitReg = s.waitReg := rfl
@[simp] theorem memWrite_fault (a : Nat) (b : Byte) : (s.memWrite a b).fault = s.fault := rfl
@[simp] theorem memWrite_mem (a : Nat) (b : Byte) : (s.memWrite a b).mem = Memory.write s.cfg.font s.mem a b := rfl
@[simp] theorem memWrite_disp (a : Nat) (b : Byte) : (s.memWrite a b).disp = s.disp := rfl
@[simp] theorem memWrite_tone (a : Nat) (b : Byte) : (s.memWrite a b).tone = s.tone := rfl
@[simp] theorem memWrite_keys (a : Nat) (b : Byte) : (s.memWrite a b).keys = s.keys := rfl
@[simp] theorem memWrite_cfg (a : Nat) (b : Byte) : (s.memWrite a b).cfg = s.cfg := rfl
@[simp] theorem memWrite_slot (a : Nat) (b : Byte) : (s.memWrite a b).slot = s.slot := rfl
@[simp] theorem memWrite_inbox (a : Nat) (b : Byte) : (s.memWrite a b).inbox = s.inbox := rfl
@[simp] theorem memWrite_draws (a : Nat) (b : Byte) : (s.memWrite a b).draws = s.draws := rfl
@[simp] theorem memWrite_ports (a : Nat) (b : Byte) : (s.memWrite a b).ports = s.ports := rfl

/-! ### setI -/

@[simp] theorem setI_v (w : Word) : (s.setI w).v = s.v := rfl
@[simp] theorem setI_iReg (w : Word) : (s.setI w).iReg = w := rfl
@[simp] theorem setI_pc (w : Word) : (s.setI w).pc = s.pc := rfl
@[simp] theorem setI_stack (w : Word) : (s.setI w).stack = s.stack := rfl
@[simp] theorem setI_dt (w : Word) : (s.setI w).dt = s.dt := rfl
@[simp] theorem setI_st (w : Word) : (s.setI w).st = s.st := rfl
@[simp] theorem setI_wait (w : Word) : (s.setI w).wait = s.wait := rfl
@[simp] theorem setI_waitReg (w : Word) : (s.setI w).waitReg = s.waitReg := rfl
@[simp] theorem setI_fault (w : Word) : (s.setI w).fault = s.fault := rfl
@[simp] theorem setI_mem (w : Word) : (s.setI w).mem = s.mem := rfl
@[simp] theorem setI_disp (w : Word) : (s.setI w).disp = s.disp := rfl
@[simp] theorem setI_tone (w : Word) : (s.setI w).tone = s.tone := rfl
@[simp] theorem setI_keys (w : Word) : (s.setI w).keys = s.keys := rfl
@[simp] theorem setI_cfg (w : Word) : (s.setI w).cfg = s.cfg := rfl
@[simp] theorem setI_slot (w : Word) : (s.setI w).slot = s.slot := rfl
@[simp] theorem setI_inbox (w : Word) : (s.setI w).inbox = s.inbox := rfl
@[simp] theorem setI_draws (w : Word) : (s.setI w).draws = s.draws := rfl
@[simp] theorem setI_ports (w : Word) : (s.setI w).ports = s.ports := rfl

/-! ### setPc -/

@[simp] theorem setPc_v (w : Word) : (s.setPc w).v = s.v := rfl
@[simp] theorem setPc_iReg (w : Word) : (s.setPc w).iReg = s.iReg := rfl
@[simp] theorem setPc_pc (w : Word) : (s.setPc w).pc = w := rfl
@[simp] theorem setPc_stack (w : Word) : (s.setPc w).stack = s.stack := rfl
@[simp] theorem setPc_dt (w : Word) : (s.setPc w).dt = s.dt := rfl
@[simp] theorem setPc_st (w : Word) : (s.setPc w).st = s.st := rfl
@[simp] theorem setPc_wait (w : Word) : (s.setPc w).wait = s.wait := rfl
@[simp] theorem setPc_waitReg (w : Word) : (s.setPc w).waitReg = s.waitReg := rfl
@[simp] theorem setPc_fault (w : Word) : (s.setPc w).fault = s.fault := rfl
@[simp] theorem setPc_mem (w : Word) : (s.setPc w).mem = s.mem := rfl
@[simp] theorem setPc_disp (w : Word) : (s.setPc w).disp = s.disp := rfl
@[simp] theorem setPc_tone (w : Word) : (s.setPc w).tone = s.tone := rfl
@[simp] theorem setPc_keys (w : Word) : (s.setPc w).keys = s.keys := rfl
@[simp] theorem setPc_cfg (w : Word) : (s.setPc w).cfg = s.cfg := rfl
@[simp] theorem setPc_slot (w : Word) : (s.setPc w).slot = s.slot := rfl
@[simp] theorem setPc_inbox (w : Word) : (s.setPc w).inbox = s.inbox := rfl
@[simp] theorem setPc_draws (w : Word) : (s.setPc w).draws = s.draws := rfl
@[simp] theorem setPc_ports (w : Word) : (s.setPc w).ports = s.ports := rfl

/-! ### skip -/

@[simp] theorem skip_v : (s.skip).v = s.v := rfl
@[simp] theorem skip_iReg : (s.skip).iReg = s.iReg := rfl
@[simp] theorem skip_pc : (s.skip).pc = s.pc + 2 := rfl
@[simp] theorem skip_stack : (s.skip).stack = s.stack := rfl
@[simp] theorem skip_dt : (s.skip).dt = s.dt := rfl
@[simp] theorem skip_st : (s.skip).st = s.st := rfl
@[simp] theorem skip_wait : (s.skip).wait = s.wait := rfl
@[simp] theorem skip_waitReg : (s.skip).waitReg = s.waitReg := rfl
@[simp] theorem skip_fault : (s.skip).fault = s.fault := rfl
@[simp] theorem skip_mem : (s.skip).mem = s.mem := rfl
@[simp] theorem skip_disp : (s.skip).disp = s.disp := rfl
@[simp] theorem skip_tone : (s.skip).tone = s.tone := rfl
@[simp] theorem skip_keys : (s.skip).keys = s.keys := rfl
@[simp] theorem skip_cfg : (s.skip).cfg = s.cfg := rfl
@[simp] theorem skip_slot : (s.skip).slot = s.slot := rfl
@[simp] theorem skip_inbox : (s.skip).inbox = s.inbox := rfl
@[simp] theorem skip_draws : (s.skip).draws = s.draws := rfl
@[simp] theorem skip_ports : (s.skip).ports = s.ports := rfl

/-! ### setDt -/

@[simp] theorem setDt_v (b : Byte) : (s.setDt b).v = s.v := rfl
@[simp] theorem setDt_iReg (b : Byte) : (s.setDt b).iReg = s.iReg := rfl
@[simp] theorem setDt_pc (b : Byte) : (s.setDt b).pc = s.pc := rfl
@[simp] theorem setDt_stack (b : Byte) : (s.setDt b).stack = s.stack := rfl
@[simp] theorem setDt_dt (b : Byte) : (s.setDt b).dt = b := rfl
@[simp] theorem setDt_st (b : Byte) : (s.setDt b).st = s.st := rfl
@[simp] theorem setDt_wait (b : Byte) : (s.setDt b).wait = s.wait := rfl
@[simp] theorem setDt_waitReg (b : Byte) : (s.setDt b).waitReg = s.waitReg := rfl
@[simp] theorem setDt_fault (b : Byte) : (s.setDt b).fault = s.fault := rfl
@[simp] theorem setDt_mem (b : Byte) : (s.setDt b).mem = s.mem := rfl
@[simp] theorem setDt_disp (b : Byte) : (s.setDt b).disp = s.disp := rfl
@[simp] theorem setDt_tone (b : Byte) : (s.setDt b).tone = s.tone := rfl
@[simp] theorem setDt_keys (b : Byte) : (s.setDt b).keys = s.keys := rfl
@[simp] theorem setDt_cfg (b : Byte) : (s.setDt b).cfg = s.cfg := rfl
@[simp] theorem setDt_slot (b : Byte) : (s.setDt b).slot = s.slot := rfl
@[simp] theorem setDt_inbox (b : Byte) : (s.setDt b).inbox = s.inbox := rfl
@[simp] theorem setDt_draws (b : Byte) : (s.setDt b).draws = s.draws := rfl
@[simp] theorem setDt_ports (b : Byte) : (s.setDt b).ports = s.ports := rfl

/-! ### setSt -/

@[simp] theorem setSt_v (b : Byte) : (s.setSt b).v = s.v := rfl
@[simp] theorem setSt_iReg (b : Byte) : (s.setSt b).iReg = s.iReg := rfl
@[simp] theorem setSt_pc (b : Byte) : (s.setSt b).pc = s.pc := rfl
@[simp] theorem setSt_stack (b : Byte) : (s.setSt b).stack = s.stack := rfl
@[simp] theorem setSt_dt (b : Byte) : (s.setSt b).dt = s.dt := rfl
@[simp] theorem setSt_st (b : Byte) : (s.setSt b).st = b := rfl
@[simp] theorem setSt_wait (b : Byte) : (s.setSt b).wait = s.wait := rfl
@[simp] theorem setSt_waitReg (b : Byte) : (s.setSt b).waitReg = s.waitReg := rfl
@[simp] theorem setSt_fault (b : Byte) : (s.setSt b).fault = s.fault := rfl
@[simp] theorem setSt_mem (b : Byte) : (s.setSt b).mem = s.mem := rfl
@[simp] theorem setSt_disp (b : Byte) : (s.setSt b).disp = s.disp := rfl
@[simp] theorem setSt_tone (b : Byte) : (s.setSt b).tone = s.tone := rfl
@[simp] theorem setSt_keys (b : Byte) : (s.setSt b).keys = s.keys := rfl
@[simp] theorem setSt_cfg (b : Byte) : (s.setSt b).cfg = s.cfg := rfl
@[simp] theorem setSt_slot (b : Byte) : (s.setSt b).slot = s.slot := rfl
@[simp] theorem setSt_inbox (b : Byte) : (s.setSt b).inbox = s.inbox := rfl
@[simp] theorem setSt_draws (b : Byte) : (s.setSt b).draws = s.draws := rfl
@[simp] theorem setSt_ports (b : Byte) : (s.setSt b).ports = s.ports := rfl

/-! ### raiseAt -/

@[simp] theorem raiseAt_v (e : FatalError) (a : Word) : (s.raiseAt e a).v = s.v := rfl
@[simp] theorem raiseAt_iReg (e : FatalError) (a : Word) : (s.raiseAt e a).iReg = s.iReg := rfl
@[simp] theorem raiseAt_pc (e : FatalError) (a : Word) : (s.raiseAt e a).pc = s.pc := rfl
@[simp] theorem raiseAt_stack (e : FatalError) (a : Word) : (s.raiseAt e a).stack = s.stack := rfl
@[simp] theorem raiseAt_dt (e : FatalError) (a : Word) : (s.raiseAt e a).dt = s.dt := rfl
@[simp] theorem raiseAt_st (e : FatalError) (a : Word) : (s.raiseAt e a).st = s.st := rfl
@[simp] theorem raiseAt_wait (e : FatalError) (a : Word) : (s.raiseAt e a).wait = s.wait := rfl
@[simp] theorem raiseAt_waitReg (e : FatalError) (a : Word) : (s.raiseAt e a).waitReg = s.waitReg := rfl
@[simp] theorem raiseAt_fault (e : FatalError) (a : Word) : (s.raiseAt e a).fault = some ⟨e, a⟩ := rfl
@[simp] theorem raiseAt_mem (e : FatalError) (a : Word) : (s.raiseAt e a).mem = s.mem := rfl
@[simp] theorem raiseAt_disp (e : FatalError) (a : Word) : (s.raiseAt e a).disp = s.disp := rfl
@[simp] theorem raiseAt_tone (e : FatalError) (a : Word) : (s.raiseAt e a).tone = s.tone := rfl
@[simp] theorem raiseAt_keys (e : FatalError) (a : Word) : (s.raiseAt e a).keys = s.keys := rfl
@[simp] theorem raiseAt_cfg (e : FatalError) (a : Word) : (s.raiseAt e a).cfg = s.cfg := rfl
@[simp] theorem raiseAt_slot (e : FatalError) (a : Word) : (s.raiseAt e a).slot = 0 := rfl
@[simp] theorem raiseAt_inbox (e : FatalError) (a : Word) : (s.raiseAt e a).inbox = s.inbox := rfl
@[simp] theorem raiseAt_draws (e : FatalError) (a : Word) : (s.raiseAt e a).draws = s.draws := rfl
@[simp] theorem raiseAt_ports (e : FatalError) (a : Word) : (s.raiseAt e a).ports = s.ports := rfl

/-! ### raise -/

@[simp] theorem raise_v (e : FatalError) : (s.raise e).v = s.v := rfl
@[simp] theorem raise_iReg (e : FatalError) : (s.raise e).iReg = s.iReg := rfl
@[simp] theorem raise_pc (e : FatalError) : (s.raise e).pc = s.pc := rfl
@[simp] theorem raise_stack (e : FatalError) : (s.raise e).stack = s.stack := rfl
@[simp] theorem raise_dt (e : FatalError) : (s.raise e).dt = s.dt := rfl
@[simp] theorem raise_st (e : FatalError) : (s.raise e).st = s.st := rfl
@[simp] theorem raise_wait (e : FatalError) : (s.raise e).wait = s.wait := rfl
@[simp] theorem raise_waitReg (e : FatalError) : (s.raise e).waitReg = s.waitReg := rfl
@[simp] theorem raise_fault (e : FatalError) : (s.raise e).fault = some ⟨e, s.pc - 2⟩ := rfl
@[simp] theorem raise_mem (e : FatalError) : (s.raise e).mem = s.mem := rfl
@[simp] theorem raise_disp (e : FatalError) : (s.raise e).disp = s.disp := rfl
@[simp] theorem raise_tone (e : FatalError) : (s.raise e).tone = s.tone := rfl
@[simp] theorem raise_keys (e : FatalError) : (s.raise e).keys = s.keys := rfl
@[simp] theorem raise_cfg (e : FatalError) : (s.raise e).cfg = s.cfg := rfl
@[simp] theorem raise_slot (e : FatalError) : (s.raise e).slot = 0 := rfl
@[simp] theorem raise_inbox (e : FatalError) : (s.raise e).inbox = s.inbox := rfl
@[simp] theorem raise_draws (e : FatalError) : (s.raise e).draws = s.draws := rfl
@[simp] theorem raise_ports (e : FatalError) : (s.raise e).ports = s.ports := rfl

/-! ### push -/

@[simp] theorem push_v (w : Word) : (s.push w).v = s.v := rfl
@[simp] theorem push_iReg (w : Word) : (s.push w).iReg = s.iReg := rfl
@[simp] theorem push_pc (w : Word) : (s.push w).pc = s.pc := rfl
@[simp] theorem push_stack (w : Word) : (s.push w).stack = w :: s.stack := rfl
@[simp] theorem push_dt (w : Word) : (s.push w).dt = s.dt := rfl
@[simp] theorem push_st (w : Word) : (s.push w).st = s.st := rfl
@[simp] theorem push_wait (w : Word) : (s.push w).wait = s.wait := rfl
@[simp] theorem push_waitReg (w : Word) : (s.push w).waitReg = s.waitReg := rfl
@[simp] theorem push_fault (w : Word) : (s.push w).fault = s.fault := rfl
@[simp] theorem push_mem (w : Word) : (s.push w).mem = s.mem := rfl
@[simp] theorem push_disp (w : Word) : (s.push w).disp = s.disp := rfl
@[simp] theorem push_tone (w : Word) : (s.push w).tone = s.tone := rfl
@[simp] theorem push_keys (w : Word) : (s.push w).keys = s.keys := rfl
@[simp] theorem push_cfg (w : Word) : (s.push w).cfg = s.cfg := rfl
@[simp] theorem push_slot (w : Word) : (s.push w).slot = s.slot := rfl
@[simp] theorem push_inbox (w : Word) : (s.push w).inbox = s.inbox := rfl
@[simp] theorem push_draws (w : Word) : (s.push w).draws = s.draws := rfl
@[simp] theorem push_ports (w : Word) : (s.push w).ports = s.ports := rfl

/-! ### issue -/

@[simp] theorem issue_v (q : PortRequest) : (s.issue q).v = s.v := rfl
@[simp] theorem issue_iReg (q : PortRequest) : (s.issue q).iReg = s.iReg := rfl
@[simp] theorem issue_pc (q : PortRequest) : (s.issue q).pc = s.pc := rfl
@[simp] theorem issue_stack (q : PortRequest) : (s.issue q).stack = s.stack := rfl
@[simp] theorem issue_dt (q : PortRequest) : (s.issue q).dt = s.dt := rfl
@[simp] theorem issue_st (q : PortRequest) : (s.issue q).st = s.st := rfl
@[simp] theorem issue_wait (q : PortRequest) : (s.issue q).wait = s.wait := rfl
@[simp] theorem issue_waitReg (q : PortRequest) : (s.issue q).waitReg = s.waitReg := rfl
@[simp] theorem issue_fault (q : PortRequest) : (s.issue q).fault = s.fault := rfl
@[simp] theorem issue_mem (q : PortRequest) : (s.issue q).mem = s.mem := rfl
@[simp] theorem issue_disp (q : PortRequest) : (s.issue q).disp = s.disp := rfl
@[simp] theorem issue_tone (q : PortRequest) : (s.issue q).tone = s.tone := rfl
@[simp] theorem issue_keys (q : PortRequest) : (s.issue q).keys = s.keys := rfl
@[simp] theorem issue_cfg (q : PortRequest) : (s.issue q).cfg = s.cfg := rfl
@[simp] theorem issue_slot (q : PortRequest) : (s.issue q).slot = s.slot := rfl
@[simp] theorem issue_inbox (q : PortRequest) : (s.issue q).inbox = s.inbox := rfl
@[simp] theorem issue_draws (q : PortRequest) : (s.issue q).draws = s.draws := rfl
@[simp] theorem issue_ports (q : PortRequest) : (s.issue q).ports = q :: s.ports := rfl

/-! ### dispToggle -/

@[simp] theorem dispToggle_v (px py : Nat) : (s.dispToggle px py).v = s.v := rfl
@[simp] theorem dispToggle_iReg (px py : Nat) : (s.dispToggle px py).iReg = s.iReg := rfl
@[simp] theorem dispToggle_pc (px py : Nat) : (s.dispToggle px py).pc = s.pc := rfl
@[simp] theorem dispToggle_stack (px py : Nat) : (s.dispToggle px py).stack = s.stack := rfl
@[simp] theorem dispToggle_dt (px py : Nat) : (s.dispToggle px py).dt = s.dt := rfl
@[simp] theorem dispToggle_st (px py : Nat) : (s.dispToggle px py).st = s.st := rfl
@[simp] theorem dispToggle_wait (px py : Nat) : (s.dispToggle px py).wait = s.wait := rfl
@[simp] theorem dispToggle_waitReg (px py : Nat) : (s.dispToggle px py).waitReg = s.waitReg := rfl
@[simp] theorem dispToggle_fault (px py : Nat) : (s.dispToggle px py).fault = s.fault := rfl
@[simp] theorem dispToggle_mem (px py : Nat) : (s.dispToggle px py).mem = s.mem := rfl
@[simp] theorem dispToggle_disp (px py : Nat) : (s.dispToggle px py).disp = s.disp.flip (corr px Config.cols) (corr py Config.rows) := rfl
@[simp] theorem dispToggle_tone (px py : Nat) : (s.dispToggle px py).tone = s.tone := rfl
@[simp] theorem dispToggle_keys (px py : Nat) : (s.dispToggle px py).keys = s.keys := rfl
@[simp] theorem dispToggle_cfg (px py : Nat) : (s.dispToggle px py).cfg = s.cfg := rfl
@[simp] theorem dispToggle_slot (px py : Nat) : (s.dispToggle px py).slot = s.slot := rfl
@[simp] theorem dispToggle_inbox (px py : Nat) : (s.dispToggle px py).inbox = s.inbox := rfl
@[simp] theorem dispToggle_draws (px py : Nat) : (s.dispToggle px py).draws = s.draws := rfl
@[simp] theorem dispToggle_ports (px py : Nat) : (s.dispToggle px py).ports = .dispToggle px py (s.toggleAnswer px py) :: s.ports := rfl

/-! ### dispClear -/

@[simp] theorem dispClear_v : (s.dispClear).v = s.v := rfl
@[simp] theorem dispClear_iReg : (s.dispClear).iReg = s.iReg := rfl
@[simp] theorem dispClear_pc : (s.dispClear).pc = s.pc := rfl
@[simp] theorem dispClear_stack : (s.dispClear).stack = s.stack := rfl
@[simp] theorem dispClear_dt : (s.dispClear).dt = s.dt := rfl
@[simp] theorem dispClear_st : (s.dispClear).st = s.st := rfl
@[simp] theorem dispClear_wait : (s.dispClear).wait = s.wait := rfl
@[simp] theorem dispClear_waitReg : (s.dispClear).waitReg = s.waitReg := rfl
@[simp] theorem dispClear_fault : (s.dispClear).fault = s.fault := rfl
@[simp] theorem dispClear_mem : (s.dispClear).mem = s.mem := rfl
@[simp] theorem dispClear_disp : (s.dispClear).disp = Vector.replicate 32 (Vector.replicate 64 false) := rfl
@[simp] theorem dispClear_tone : (s.dispClear).tone = s.tone := rfl
@[simp] theorem dispClear_keys : (s.dispClear).keys = s.keys := rfl
@[simp] theorem dispClear_cfg : (s.dispClear).cfg = s.cfg := rfl
@[simp] theorem dispClear_slot : (s.dispClear).slot = s.slot := rfl
@[simp] theorem dispClear_inbox : (s.dispClear).inbox = s.inbox := rfl
@[simp] theorem dispClear_draws : (s.dispClear).draws = s.draws := rfl
@[simp] theorem dispClear_ports : (s.dispClear).ports = .dispClear :: s.ports := rfl

/-! ### dispFlush -/

@[simp] theorem dispFlush_v : (s.dispFlush).v = s.v := rfl
@[simp] theorem dispFlush_iReg : (s.dispFlush).iReg = s.iReg := rfl
@[simp] theorem dispFlush_pc : (s.dispFlush).pc = s.pc := rfl
@[simp] theorem dispFlush_stack : (s.dispFlush).stack = s.stack := rfl
@[simp] theorem dispFlush_dt : (s.dispFlush).dt = s.dt := rfl
@[simp] theorem dispFlush_st : (s.dispFlush).st = s.st := rfl
@[simp] theorem dispFlush_wait : (s.dispFlush).wait = s.wait := rfl
@[simp] theorem dispFlush_waitReg : (s.dispFlush).waitReg = s.waitReg := rfl
@[simp] theorem dispFlush_fault : (s.dispFlush).fault = s.fault := rfl
@[simp] theorem dispFlush_mem : (s.dispFlush).mem = s.mem := rfl
@[simp] theorem dispFlush_disp : (s.dispFlush).disp = s.disp := rfl
@[simp] theorem dispFlush_tone : (s.dispFlush).tone = s.tone := rfl
@[simp] theorem dispFlush_keys : (s.dispFlush).keys = s.keys := rfl
@[simp] theorem dispFlush_cfg : (s.dispFlush).cfg = s.cfg := rfl
@[simp] theorem dispFlush_slot : (s.dispFlush).slot = s.slot := rfl
@[simp] theorem dispFlush_inbox : (s.dispFlush).inbox = s.inbox := rfl
@[simp] theorem dispFlush_draws : (s.dispFlush).draws = s.draws := rfl
@[simp] theorem dispFlush_ports : (s.dispFlush).ports = .dispFlush :: s.ports := rfl

/-! ### toneStart -/

@[simp] theorem toneStart_v : (s.toneStart).v = s.v := rfl
@[simp] theorem toneStart_iReg : (s.toneStart).iReg = s.iReg := rfl
@[simp] theorem toneStart_pc : (s.toneStart).pc = s.pc := rfl
@[simp] theorem toneStart_stack : (s.toneStart).stack = s.stack := rfl
@[simp] theorem toneStart_dt : (s.toneStart).dt = s.dt := rfl
@[simp] theorem toneStart_st : (s.toneStart).st = s.st := rfl
@[simp] theorem toneStart_wait : (s.toneStart).wait = s.wait := rfl
@[simp] theorem toneStart_waitReg : (s.toneStart).waitReg = s.waitReg := rfl
@[simp] theorem toneStart_fault : (s.toneStart).fault = s.fault := rfl
@[simp] theorem toneStart_mem : (s.toneStart).mem = s.mem := rfl
@[simp] theorem toneStart_disp : (s.toneStart).disp = s.disp := rfl
@[simp] theorem toneStart_tone : (s.toneStart).tone = true := rfl
@[simp] theorem toneStart_keys : (s.toneStart).keys = s.keys := rfl
@[simp] theorem toneStart_cfg : (s.toneStart).cfg = s.cfg := rfl
@[simp] theorem toneStart_slot : (s.toneStart).slot = s.slot := rfl
@[simp] theorem toneStart_inbox : (s.toneStart).inbox = s.inbox := rfl
@[simp] theorem toneStart_draws : (s.toneStart).draws = s.draws := rfl
@[simp] theorem toneStart_ports : (s.toneStart).ports = .toneStart s.cfg.toneHz :: s.ports := rfl

/-! ### toneStop -/

@[simp] theorem toneStop_v : (s.toneStop).v = s.v := rfl
@[simp] theorem toneStop_iReg : (s.toneStop).iReg = s.iReg := rfl
@[simp] theorem toneStop_pc : (s.toneStop).pc = s.pc := rfl
@[simp] theorem toneStop_stack : (s.toneStop).stack = s.stack := rfl
@[simp] theorem toneStop_dt : (s.toneStop).dt = s.dt := rfl
@[simp] theorem toneStop_st : (s.toneStop).st = s.st := rfl
@[simp] theorem toneStop_wait : (s.toneStop).wait = s.wait := rfl
@[simp] theorem toneStop_waitReg : (s.toneStop).waitReg = s.waitReg := rfl
@[simp] theorem toneStop_fault : (s.toneStop).fault = s.fault := rfl
@[simp] theorem toneStop_mem : (s.toneStop).mem = s.mem := rfl
@[simp] theorem toneStop_disp : (s.toneStop).disp = s.disp := rfl
@[simp] theorem toneStop_tone : (s.toneStop).tone = false := rfl
@[simp] theorem toneStop_keys : (s.toneStop).keys = s.keys := rfl
@[simp] theorem toneStop_cfg : (s.toneStop).cfg = s.cfg := rfl
@[simp] theorem toneStop_slot : (s.toneStop).slot = s.slot := rfl
@[simp] theorem toneStop_inbox : (s.toneStop).inbox = s.inbox := rfl
@[simp] theorem toneStop_draws : (s.toneStop).draws = s.draws := rfl
@[simp] theorem toneStop_ports : (s.toneStop).ports = .toneStop :: s.ports := rfl

/-! ### drawn -/

@[simp] theorem drawn_v : (s.drawn).v = s.v := rfl
@[simp] theorem drawn_iReg : (s.drawn).iReg = s.iReg := rfl
@[simp] theorem drawn_pc : (s.drawn).pc = s.pc := rfl
@[simp] theorem drawn_stack : (s.drawn).stack = s.stack := rfl
@[simp] theorem drawn_dt : (s.drawn).dt = s.dt := rfl
@[simp] theorem drawn_st : (s.drawn).st = s.st := rfl
@[simp] theorem drawn_wait : (s.drawn).wait = s.wait := rfl
@[simp] theorem drawn_waitReg : (s.drawn).waitReg = s.waitReg := rfl
@[simp] theorem drawn_fault : (s.drawn).fault = s.fault := rfl
@[simp] theorem drawn_mem : (s.drawn).mem = s.mem := rfl
@[simp] theorem drawn_disp : (s.drawn).disp = s.disp := rfl
@[simp] theorem drawn_tone : (s.drawn).tone = s.tone := rfl
@[simp] theorem drawn_keys : (s.drawn).keys = s.keys := rfl
@[simp] theorem drawn_cfg : (s.drawn).cfg = s.cfg := rfl
@[simp] theorem drawn_slot : (s.drawn).slot = s.slot := rfl
@[simp] theorem drawn_inbox : (s.drawn).inbox = s.inbox := rfl
@[simp] theorem drawn_draws : (s.drawn).draws = s.draws + 1 := rfl
@[simp] theorem drawn_ports : (s.drawn).ports = s.ports := rfl

/-! ### setWait -/

@[simp] theorem setWait_v (x : Reg) : (s.setWait x).v = s.v := rfl
@[simp] theorem setWait_iReg (x : Reg) : (s.setWait x).iReg = s.iReg := rfl
@[simp] theorem setWait_pc (x : Reg) : (s.setWait x).pc = s.pc := rfl
@[simp] theorem setWait_stack (x : Reg) : (s.setWait x).stack = s.stack := rfl
@[simp] theorem setWait_dt (x : Reg) : (s.setWait x).dt = s.dt := rfl
@[simp] theorem setWait_st (x : Reg) : (s.setWait x).st = s.st := rfl
@[simp] theorem setWait_wait (x : Reg) : (s.setWait x).wait = true := rfl
@[simp] theorem setWait_waitReg (x : Reg) : (s.setWait x).waitReg = x := rfl
@[simp] theorem setWait_fault (x : Reg) : (s.setWait x).fault = s.fault := rfl
@[simp] theorem setWait_mem (x : Reg) : (s.setWait x).mem = s.mem := rfl
@[simp] theorem setWait_disp (x : Reg) : (s.setWait x).disp = s.disp := rfl
@[simp] theorem setWait_tone (x : Reg) : (s.setWait x).tone = s.tone := rfl
@[simp] theorem setWait_keys (x : Reg) : (s.setWait x).keys = s.keys := rfl
@[simp] theorem setWait_cfg (x : Reg) : (s.setWait x).cfg = s.cfg := rfl
@[simp] theorem setWait_slot (x : Reg) : (s.setWait x).slot = s.slot := rfl
@[simp] theorem setWait_inbox (x : Reg) : (s.setWait x).inbox = s.inbox := rfl
@[simp] theorem setWait_draws (x : Reg) : (s.setWait x).draws = s.draws := rfl
@[simp] theorem setWait_ports (x : Reg) : (s.setWait x).ports = s.ports := rfl

/-! ### setKey -/

@[simp] theorem setKey_v (k : Key) (l : Bool) : (s.setKey k l).v = s.v := rfl
@[simp] theorem setKey_iReg (k : Key) (l : Bool) : (s.setKey k l).iReg = s.iReg := rfl
@[simp] theorem setKey_pc (k : Key) (l : Bool) : (s.setKey k l).pc = s.pc := rfl
@[simp] theorem setKey_stack (k : Key) (l : Bool) : (s.setKey k l).stack = s.stack := rfl
@[simp] theorem setKey_dt (k : Key) (l : Bool) : (s.setKey k l).dt = s.dt := rfl
@[simp] theorem setKey_st (k : Key) (l : Bool) : (s.setKey k l).st = s.st := rfl
@[simp] theorem setKey_wait (k : Key) (l : Bool) : (s.setKey k l).wait = s.wait := rfl
@[simp] theorem setKey_waitReg (k : Key) (l : Bool) : (s.setKey k l).waitReg = s.waitReg := rfl
@[simp] theorem setKey_fault (k : Key) (l : Bool) : (s.setKey k l).fault = s.fault := rfl
@[simp] theorem setKey_mem (k : Key) (l : Bool) : (s.setKey k l).mem = s.mem := rfl
@[simp] theorem setKey_disp (k : Key) (l : Bool) : (s.setKey k l).disp = s.disp := rfl
@[simp] theorem setKey_tone (k : Key) (l : Bool) : (s.setKey k l).tone = s.tone := rfl
@[simp] theorem setKey_keys (k : Key) (l : Bool) : (s.setKey k l).keys = s.keys.set k.val l := rfl
@[simp] theorem setKey_cfg (k : Key) (l : Bool) : (s.setKey k l).cfg = s.cfg := rfl
@[simp] theorem setKey_slot (k : Key) (l : Bool) : (s.setKey k l).slot = s.slot := rfl
@[simp] theorem setKey_inbox (k : Key) (l : Bool) : (s.setKey k l).inbox = s.inbox := rfl
@[simp] theorem setKey_draws (k : Key) (l : Bool) : (s.setKey k l).draws = s.draws := rfl
@[simp] theorem setKey_ports (k : Key) (l : Bool) : (s.setKey k l).ports = s.ports := rfl

/-! ### fetched -/

@[simp] theorem fetched_v : (s.fetched).v = s.v := rfl
@[simp] theorem fetched_iReg : (s.fetched).iReg = s.iReg := rfl
@[simp] theorem fetched_pc : (s.fetched).pc = s.pc + 2 := rfl
@[simp] theorem fetched_stack : (s.fetched).stack = s.stack := rfl
@[simp] theorem fetched_dt : (s.fetched).dt = s.dt := rfl
@[simp] theorem fetched_st : (s.fetched).st = s.st := rfl
@[simp] theorem fetched_wait : (s.fetched).wait = s.wait := rfl
@[simp] theorem fetched_waitReg : (s.fetched).waitReg = s.waitReg := rfl
@[simp] theorem fetched_fault : (s.fetched).fault = s.fault := rfl
@[simp] theorem fetched_mem : (s.fetched).mem = s.mem := rfl
@[simp] theorem fetched_disp : (s.fetched).disp = s.disp := rfl
@[simp] theorem fetched_tone : (s.fetched).tone = s.tone := rfl
@[simp] theorem fetched_keys : (s.fetched).keys = s.keys := rfl
@[simp] theorem fetched_cfg : (s.fetched).cfg = s.cfg := rfl
@[simp] theorem fetched_slot : (s.fetched).slot = s.slot + 1 := rfl
@[simp] theorem fetched_inbox : (s.fetched).inbox = s.inbox := rfl
@[simp] theorem fetched_draws : (s.fetched).draws = s.draws := rfl
@[simp] theorem fetched_ports : (s.fetched).ports = s.ports := rfl

/-! ### idleSlot -/

@[simp] theorem idleSlot_v : (s.idleSlot).v = s.v := rfl
@[simp] theorem idleSlot_iReg : (s.idleSlot).iReg = s.iReg := rfl
@[simp] theorem idleSlot_pc : (s.idleSlot).pc = s.pc := rfl
@[simp] theorem idleSlot_stack : (s.idleSlot).stack = s.stack := rfl
@[simp] theorem idleSlot_dt : (s.idleSlot).dt = s.dt := rfl
@[simp] theorem idleSlot_st : (s.idleSlot).st = s.st := rfl
@[simp] theorem idleSlot_wait : (s.idleSlot).wait = s.wait := rfl
@[simp] theorem idleSlot_waitReg : (s.idleSlot).waitReg = s.waitReg := rfl
@[simp] theorem idleSlot_fault : (s.idleSlot).fault = s.fault := rfl
@[simp] theorem idleSlot_mem : (s.idleSlot).mem = s.mem := rfl
@[simp] theorem idleSlot_disp : (s.idleSlot).disp = s.disp := rfl
@[simp] theorem idleSlot_tone : (s.idleSlot).tone = s.tone := rfl
@[simp] theorem idleSlot_keys : (s.idleSlot).keys = s.keys := rfl
@[simp] theorem idleSlot_cfg : (s.idleSlot).cfg = s.cfg := rfl
@[simp] theorem idleSlot_slot : (s.idleSlot).slot = s.slot + 1 := rfl
@[simp] theorem idleSlot_inbox : (s.idleSlot).inbox = s.inbox := rfl
@[simp] theorem idleSlot_draws : (s.idleSlot).draws = s.draws := rfl
@[simp] theorem idleSlot_ports : (s.idleSlot).ports = s.ports := rfl

end Sys2Proof.Machine
end

