-- ==== Sys2Proof/Laws/Memory.lean ====
section
/-! SUPPORT. The laws of memory: a read after a write, and that every write keeps the canonical form. -/

namespace Sys2Proof.Machine

variable {font : Vector Byte 80} {m : Memory} {a a' : Nat} {b : Byte}

theorem read_erase : Memory.read font (m.erase a) a' = if a' = a then unlisted font a' else Memory.read font m a' := by
  induction m with
  | nil => simp [Memory.erase, Memory.read]
  | cons c m ih =>
    obtain ⟨k, c⟩ := c
    simp only [Memory.erase]
    split
    · subst k; rw [ih]; simp only [Memory.read]; grind
    · simp only [Memory.read, ih]; grind

theorem mem_erase {c : Host.Cell} (h : c ∈ m.erase a) : c ∈ m ∧ c.1 ≠ a := by
  induction m with
  | nil => simp [Memory.erase] at h
  | cons d m ih =>
    obtain ⟨k, d⟩ := d
    simp only [Memory.erase] at h
    split at h
    · exact ⟨List.mem_cons_of_mem _ (ih h).1, (ih h).2⟩
    · rcases List.mem_cons.1 h with rfl | h
      · exact ⟨List.mem_cons_self, by assumption⟩
      · exact ⟨List.mem_cons_of_mem _ (ih h).1, (ih h).2⟩

theorem read_insert (h : ∀ c ∈ m, c.1 ≠ a) :
    Memory.read font (m.insert a b) a' = if a' = a then b else Memory.read font m a' := by
  induction m with
  | nil => simp only [Memory.insert, Memory.read]; grind
  | cons c m ih =>
    obtain ⟨k, c⟩ := c
    have hk : k ≠ a := h (k, c) List.mem_cons_self
    have := ih fun c hc => h c (List.mem_cons_of_mem _ hc)
    simp only [Memory.insert]
    split <;> simp only [Memory.read] <;> grind

theorem mem_insert {c : Host.Cell} (h : c ∈ m.insert a b) : c = (a, b) ∨ c ∈ m := by
  induction m with
  | nil => simpa [Memory.insert] using h
  | cons d m ih =>
    simp only [Memory.insert] at h
    split at h
    · simpa using h
    · rcases List.mem_cons.1 h with rfl | h
      · simp
      · rcases ih h with h | h <;> simp [h]

/-- A read after a write: the byte written there, and what was there before elsewhere. No form of the memory is asked. -/
theorem read_write : Memory.read font (Memory.write font m a b) a' = if a' = a then b else Memory.read font m a' := by
  unfold Memory.write
  split
  · rw [read_erase]; grind
  · rw [read_insert fun c hc => (mem_erase hc).2, read_erase]; grind

theorem wf_cons {c : Host.Cell} : Memory.wf font (c :: m) = true ↔
    (c.1 < 4096 ∧ c.2 ≠ unlisted font c.1) ∧ (∀ d ∈ m, c.1 < d.1) ∧ Memory.wf font m = true := by
  obtain ⟨k, c⟩ := c
  simp [Memory.wf, and_assoc]

theorem wf_erase (h : Memory.wf font m = true) : Memory.wf font (m.erase a) = true := by
  induction m with
  | nil => rfl
  | cons c m ih =>
    rw [wf_cons] at h
    simp only [Memory.erase]
    split
    · exact ih h.2.2
    · exact wf_cons.2 ⟨h.1, fun d hd => h.2.1 d (mem_erase hd).1, ih h.2.2⟩

theorem wf_insert (h : Memory.wf font m = true) (hm : ∀ c ∈ m, c.1 ≠ a) (ha : a < 4096) (hb : b ≠ unlisted font a) :
    Memory.wf font (m.insert a b) = true := by
  induction m with
  | nil => simp [Memory.insert, Memory.wf, ha, hb]
  | cons c m ih =>
    have hw := wf_cons.1 h
    have hk := hm c List.mem_cons_self
    simp only [Memory.insert]
    split
    · rename_i hak
      refine wf_cons.2 ⟨⟨ha, hb⟩, fun d hd => ?_, h⟩
      rcases List.mem_cons.1 hd with rfl | hd
      · exact hak
      · exact Nat.lt_trans hak (hw.2.1 d hd)
    · refine wf_cons.2 ⟨hw.1, fun d hd => ?_, ih hw.2.2 fun d hd => hm d (List.mem_cons_of_mem _ hd)⟩
      rcases mem_insert hd with rfl | hd
      · dsimp only; omega
      · exact hw.2.1 d hd

/-- A write inside the address space keeps the canonical form. -/
theorem wf_write (h : Memory.wf font m = true) (ha : a < 4096) : Memory.wf font (Memory.write font m a b) = true := by
  unfold Memory.write
  split
  · exact wf_erase h
  · exact wf_insert (wf_erase h) (fun c hc => (mem_erase hc).2) ha ‹_›

variable (s : State)

theorem memRead_memWrite (a a' : Nat) (b : Byte) : (s.memWrite a b).memRead a' = if a' = a then b else s.memRead a' :=
  read_write

/-- All that a list of byte writes can change is memory. -/
theorem memWriteList_eq (a : Nat) (bs : List Byte) : s.memWriteList a bs = { s with mem := (s.memWriteList a bs).mem } := by
  induction bs generalizing s a with
  | nil => rfl
  | cons b bs ih => simp only [State.memWriteList]; rw [ih]; rfl

/-- Writing bytes neither reads nor writes the list of waiting transactions. -/
theorem memWriteList_inbox (a : Nat) (bs : List Byte) (l : List HostEvent) :
    State.memWriteList { s with inbox := l } a bs = { s.memWriteList a bs with inbox := l } := by
  induction bs generalizing s a with
  | nil => rfl
  | cons b bs ih => exact ih (s.memWrite a b) (a + 1)

theorem memRead_memWriteList (a a' : Nat) (bs : List Byte) :
    (s.memWriteList a bs).memRead a' = if h : a ≤ a' ∧ a' < a + bs.length then bs[a' - a]'(by omega) else s.memRead a' := by
  induction bs generalizing s a with
  | nil => simp [State.memWriteList]
  | cons b bs ih =>
    simp only [State.memWriteList, ih, memRead_memWrite, List.length_cons]
    by_cases h1 : a' = a
    · subst h1; simp
    · by_cases h2 : a + 1 ≤ a' ∧ a' < a + 1 + bs.length
      · have h3 : a ≤ a' ∧ a' < a + (bs.length + 1) := by omega
        have h4 : a' - a = (a' - (a + 1)) + 1 := by omega
        simp only [h2, h3, and_self, dite_true, h4, List.getElem_cons_succ]
      · have h3 : ¬(a ≤ a' ∧ a' < a + (bs.length + 1)) := by omega
        rw [dif_neg h2, dif_neg h3, if_neg h1]

theorem memWriteList_wf (a : Nat) (bs : List Byte) (h : Memory.wf s.cfg.font s.mem = true) (hb : a + bs.length ≤ 4096) :
    Memory.wf s.cfg.font (s.memWriteList a bs).mem = true := by
  induction bs generalizing s a with
  | nil => exact h
  | cons b bs ih =>
    simp only [List.length_cons] at hb
    exact ih (s.memWrite a b) (a + 1) (wf_write h (by omega)) (by omega)

theorem memReadList_length (a n : Nat) : (s.memReadList a n).length = n := by
  induction n generalizing a with
  | zero => rfl
  | succ n ih => simp [State.memReadList, ih]

theorem memReadList_getElem (a n i : Nat) (h : i < (s.memReadList a n).length) :
    (s.memReadList a n)[i] = s.memRead (a + i) := by
  induction n generalizing a i with
  | zero => simp [State.memReadList] at h
  | succ n ih =>
    cases i with
    | zero => simp [State.memReadList]
    | succ i =>
      simp only [State.memReadList, List.getElem_cons_succ]
      rw [ih]; congr 1; omega

/-- The bounds check passes when every address of the access lies in memory. -/
theorem spanFault_eq_none (base len : Nat) : spanFault base len = none ↔ len = 0 ∨ base + len ≤ 4096 := by
  simp [spanFault]; omega

/-- The bounds check fails with the lowest address of the access that lies outside memory. -/
theorem spanFault_eq_some (base len a : Nat) :
    spanFault base len = some a ↔ (0 < len ∧ 4096 < base + len) ∧ a = max base 4096 := by
  simp [spanFault]; omega

end Sys2Proof.Machine
end

