-- ==== Sys2Proof/Laws/Ops.lean ====
section
/-! SUPPORT. What the shared operations do: registers, the bulk transfers, the display cells, the sprite toggles. -/

namespace Sys2Proof.Machine

variable (s : State)

/-! ### Registers -/

theorem readV_writeV (r r' : Reg) (b : Byte) : (s.writeV r b).readV r' = if r' = r then b else s.readV r' := by
  simp only [State.readV, State.writeV, Vector.getElem_set, Fin.ext_iff]
  grind

@[simp] theorem readV_writeV_self (r : Reg) (b : Byte) : (s.writeV r b).readV r = b := by simp [readV_writeV]

theorem readV_writeV_ne {r r' : Reg} (h : r' ≠ r) (b : Byte) : (s.writeV r b).readV r' = s.readV r' := by
  simp [readV_writeV, h]

/-- All that a register write can change is the register file. -/
theorem writeV_eq (r : Reg) (b : Byte) : s.writeV r b = { s with v := (s.writeV r b).v } := rfl

/-- Two states that agree on every register agree on the register file. -/
theorem v_ext {s t : State} (h : ∀ r, t.readV r = s.readV r) : t.v = s.v := by
  apply Vector.ext
  intro i hi
  exact h ⟨i, hi⟩

theorem regsBelow_length (k : Nat) (h : k ≤ 16) : (s.regsBelow k).length = k := by
  induction k with
  | zero => rfl
  | succ k ih => simp [State.regsBelow, ih (by omega), show k < 16 by omega]

theorem regsBelow_getElem (k i : Nat) (hk : k ≤ 16) (hi : i < (s.regsBelow k).length) :
    (s.regsBelow k)[i] = s.readV ⟨i, by rw [regsBelow_length s k hk] at hi; omega⟩ := by
  induction k with
  | zero => simp [State.regsBelow] at hi
  | succ k ih =>
    have hl := regsBelow_length s k (by omega)
    rw [regsBelow_length s _ hk] at hi
    simp only [State.regsBelow, show k < 16 by omega, dite_true]
    by_cases h : i < k
    · rw [List.getElem_append_left (by omega)]
      exact ih (by omega) (by omega)
    · have : i = k := by omega
      subst this
      simp [List.getElem_append_right, hl]

/-- All that loading registers can change is the register file. -/
theorem loadRegs_eq (a k : Nat) : s.loadRegs a k = { s with v := (s.loadRegs a k).v } := by
  induction k with
  | zero => rfl
  | succ k ih =>
    simp only [State.loadRegs]
    split
    · rw [writeV_eq, ih]
    · exact ih

theorem readV_loadRegs (a k : Nat) (r : Reg) :
    (s.loadRegs a k).readV r = if r.val < k then s.memRead (a + r.val) else s.readV r := by
  induction k with
  | zero => simp [State.loadRegs]
  | succ k ih =>
    simp only [State.loadRegs]
    split
    · rw [readV_writeV, ih]
      have : r = ⟨k, ‹_›⟩ ↔ r.val = k := by simp [Fin.ext_iff]
      grind
    · rw [ih]; have := r.isLt; grind

/-! ### Display cells -/

variable (d : Display)

theorem cell_flip (qx qy x y : Nat) :
    (d.flip qx qy).cell x y = if x = qx ∧ y = qy ∧ qx < 64 ∧ qy < 32 then !d.cell x y else d.cell x y := by
  unfold Display.flip
  by_cases hq : qx < 64 ∧ qy < 32
  · simp only [hq, and_self, dite_true]
    by_cases hx : x < 64 ∧ y < 32
    · simp only [Display.cell, hx, and_self, dite_true, Vector.getElem_set]
      by_cases hy : qy = y
      · subst hy; simp only [if_true, Vector.getElem_set]; by_cases hxx : qx = x
        · subst hxx; simp
        · simp [hxx, Ne.symm hxx]
      · simp [hy, Ne.symm hy]
    · simp only [Display.cell, hx, dite_false]
      have : ¬(x = qx ∧ y = qy) := by rintro ⟨rfl, rfl⟩; exact hx hq
      rw [if_neg fun h => this ⟨h.1, h.2.1⟩]
  · rw [dif_neg hq, if_neg fun h => hq h.2.2]

theorem display_ext {d d' : Display} (h : ∀ x y, x < 64 → y < 32 → d.cell x y = d'.cell x y) : d = d' := by
  apply Vector.ext
  intro y hy
  apply Vector.ext
  intro x hx
  have := h x y hx hy
  simpa [Display.cell, hx, hy] using this

theorem cell_replicate (x y : Nat) : Display.cell (Vector.replicate 32 (Vector.replicate 64 false)) x y = false := by
  simp [Display.cell]

/-- Toggling a position again undoes it. -/
theorem flip_flip (qx qy : Nat) : (d.flip qx qy).flip qx qy = d := by
  apply display_ext
  intro x y _ _
  by_cases h : x = qx ∧ y = qy ∧ qx < 64 ∧ qy < 32 <;> simp [cell_flip, h]

/-! ### Sprites -/

theorem mem_rowCells (px py : Nat) (row : Byte) (p : Nat × Nat) :
    p ∈ rowCells px py row ↔ ∃ c, c < 8 ∧ row.getLsbD (7 - c) = true ∧ p = (px + c, py) := by
  simp only [rowCells, List.mem_filterMap, List.mem_range]
  constructor
  · rintro ⟨c, hc, h⟩
    split at h
    · exact ⟨c, hc, ‹_›, (Option.some.inj h).symm⟩
    · cases h
  · rintro ⟨c, hc, hb, rfl⟩
    exact ⟨c, hc, by simp [hb]⟩

theorem mem_spriteCells (px py : Nat) (rows : List Byte) (p : Nat × Nat) :
    p ∈ spriteCells px py rows ↔
      ∃ (r c : Nat) (h : r < rows.length), c < 8 ∧ rows[r].getLsbD (7 - c) = true ∧ p = (px + c, py + r) := by
  induction rows generalizing py with
  | nil => simp [spriteCells]
  | cons row rows ih =>
    simp only [spriteCells, List.mem_append, mem_rowCells, ih]
    constructor
    · rintro (⟨c, hc, hb, rfl⟩ | ⟨r, c, hr, hc, hb, rfl⟩)
      · exact ⟨0, c, by simp, hc, hb, rfl⟩
      · exact ⟨r + 1, c, by simp [hr], hc, by simpa using hb, by simp; omega⟩
    · rintro ⟨r, c, hr, hc, hb, rfl⟩
      cases r with
      | zero => exact .inl ⟨c, hc, by simpa using hb, rfl⟩
      | succ r => exact .inr ⟨r, c, by simpa using hr, hc, by simpa using hb, by simp; omega⟩

/-- All that a run of toggles can change is the display and the record of requests. -/
theorem toggleAll_eq (ps : List (Nat × Nat)) :
    s.toggleAll ps = { s with disp := (s.toggleAll ps).disp, ports := (s.toggleAll ps).ports } := by
  induction ps generalizing s with
  | nil => rfl
  | cons p ps ih => simp only [State.toggleAll]; rw [ih]; rfl

/-- No position is off the grid when the search for one finds none. -/
theorem firstOffGrid_eq_none (ps : List (Nat × Nat)) :
    firstOffGrid ps = none ↔ ∀ p ∈ ps, inGrid p.1 p.2 = true := by
  simp [firstOffGrid, List.find?_eq_none]

/-! ### Fatal errors -/

/-- All that a raise can change is the fault latch and the place in the tick. -/
theorem raise_eq (e : FatalError) : s.raise e = { s with fault := some ⟨e, s.pc - 2⟩, slot := 0 } := rfl

end Sys2Proof.Machine
end

