-- ==== Sys2Proof/Laws/Draw.lean ====
section
/-! SUPPORT. What Dxyn's operations do: the positions it toggles, that they are distinct, and the cells they change. -/

namespace Sys2Proof.Machine

/-- The positions Dxyn toggles are those of the set bits of the n bytes at I. -/
theorem mem_drawCells (s : State) (x y : Reg) (n : Nat) (p : Nat × Nat) :
    p ∈ s.drawCells x y n ↔ ∃ r c, r < n ∧ c < 8 ∧ (s.memRead (s.base + r)).getLsbD (7 - c) = true ∧
      p = ((s.readV x).toNat + c, (s.readV y).toNat + r) := by
  unfold State.drawCells
  rw [mem_spriteCells]
  constructor
  · rintro ⟨r, c, h, hc, hb, rfl⟩
    rw [memReadList_getElem] at hb
    rw [memReadList_length] at h
    exact ⟨r, c, h, hc, hb, rfl⟩
  · rintro ⟨r, c, h, hc, hb, rfl⟩
    exact ⟨r, c, by rw [memReadList_length]; exact h, hc, by rw [memReadList_getElem]; exact hb, rfl⟩

theorem rowCells_pairwise (px py : Nat) (row : Byte) :
    (rowCells px py row).Pairwise fun p q => p.1 < q.1 ∧ p.2 = q.2 := by
  unfold rowCells
  rw [List.pairwise_filterMap]
  refine List.Pairwise.imp ?_ List.pairwise_lt_range
  intro a b hab p hp q hq
  split at hp <;> simp at hp
  split at hq <;> simp at hq
  subst hp hq
  simpa using hab

/-- The positions of a sprite stand in row-major order. -/
theorem spriteCells_pairwise (px py : Nat) (rows : List Byte) :
    (spriteCells px py rows).Pairwise fun p q => (p.1 < q.1 ∧ p.2 = q.2) ∨ p.2 < q.2 := by
  induction rows generalizing py with
  | nil => simp [spriteCells]
  | cons row rows ih =>
    simp only [spriteCells, List.pairwise_append]
    refine ⟨(rowCells_pairwise ..).imp .inl, ih _, ?_⟩
    intro p hp q hq
    obtain ⟨c, _, _, rfl⟩ := (mem_rowCells ..).1 hp
    obtain ⟨r, c, _, _, _, rfl⟩ := (mem_spriteCells ..).1 hq
    right
    simp
    omega

/-- Two raw coordinates less than a dimension apart are not corrected to the same. -/
theorem corr_injective {p q d : Nat} (h : corr p d = corr q d) (hpq : p < q + d)
    (hqp : q < p + d) : p = q := by
  unfold corr at h
  grind

/-- The cells a run of toggles changes, when its positions lie in the grid and are distinct once corrected. -/
theorem cell_toggleAll (ps : List (Nat × Nat)) (s : State) (hg : ∀ p ∈ ps, inGrid p.1 p.2 = true)
    (hd : ps.Pairwise fun p q => ¬(corr p.1 64 = corr q.1 64 ∧ corr p.2 32 = corr q.2 32)) (qx qy : Nat) :
    (s.toggleAll ps).disp.cell qx qy =
      if ∃ p ∈ ps, corr p.1 64 = qx ∧ corr p.2 32 = qy then !s.disp.cell qx qy else s.disp.cell qx qy := by
  induction ps generalizing s with
  | nil => simp [State.toggleAll]
  | cons p ps ih =>
    obtain ⟨hd1, hd2⟩ := List.pairwise_cons.1 hd
    have hp := hg p List.mem_cons_self
    simp [inGrid] at hp
    have i1 := ih (s.dispToggle p.1 p.2) (fun q hq => hg q (List.mem_cons_of_mem _ hq)) hd2
    have hcell : (s.dispToggle p.1 p.2).disp.cell qx qy =
        if qx = corr p.1 64 ∧ qy = corr p.2 32 then !s.disp.cell qx qy else s.disp.cell qx qy := by simp [cell_flip, hp]
    simp only [State.toggleAll, i1, hcell]
    by_cases h1 : corr p.1 64 = qx ∧ corr p.2 32 = qy
    · have h2 : ¬∃ q ∈ ps, corr q.1 64 = qx ∧ corr q.2 32 = qy := by
        rintro ⟨q, hq, e1, e2⟩
        exact hd1 q hq ⟨by omega, by omega⟩
      rw [if_neg h2, if_pos ⟨h1.1.symm, h1.2.symm⟩, if_pos ⟨p, List.mem_cons_self, h1⟩]
    · by_cases h2 : ∃ q ∈ ps, corr q.1 64 = qx ∧ corr q.2 32 = qy
      · rw [if_pos h2, if_neg (by omega), if_pos]
        obtain ⟨q, hq, e⟩ := h2
        exact ⟨q, List.mem_cons_of_mem _ hq, e⟩
      · rw [if_neg h2, if_neg (by omega), if_neg]
        rintro ⟨q, hq, e⟩
        rcases List.mem_cons.1 hq with rfl | hq
        · exact h1 e
        · exact h2 ⟨q, hq, e⟩

/-- The requests a run of toggles issues, when its positions lie in the grid and are distinct once corrected: one
`DispToggle` each, in order, with the bit answered by the display as it was at the start. -/
theorem ports_toggleAll (ps : List (Nat × Nat)) (s : State) (hg : ∀ p ∈ ps, inGrid p.1 p.2 = true)
    (hd : ps.Pairwise fun p q => ¬(corr p.1 64 = corr q.1 64 ∧ corr p.2 32 = corr q.2 32)) :
    (s.toggleAll ps).ports =
      (ps.map fun p => PortRequest.dispToggle p.1 p.2 (s.disp.cell (corr p.1 64) (corr p.2 32))).reverse ++ s.ports := by
  induction ps generalizing s with
  | nil => rfl
  | cons p ps ih =>
    obtain ⟨hd1, hd2⟩ := List.pairwise_cons.1 hd
    have hcell : ∀ q ∈ ps, (s.dispToggle p.1 p.2).disp.cell (corr q.1 64) (corr q.2 32) =
        s.disp.cell (corr q.1 64) (corr q.2 32) := by
      intro q hq
      have := hd1 q hq
      simp only [State.dispToggle, cell_flip]
      rw [if_neg fun h => this ⟨h.1.symm, h.2.1.symm⟩]
    simp only [State.toggleAll]
    rw [ih _ (fun q hq => hg q (List.mem_cons_of_mem _ hq)) hd2,
      List.map_congr_left fun q hq => by rw [hcell q hq]]
    simp [State.dispToggle, State.toggleAnswer]

/-- The positions of the sprite held in memory, row by row. -/
theorem spriteCells_memReadList (s : State) (px py base n : Nat) :
    spriteCells px py (s.memReadList base n) =
      (List.range n).flatMap fun r => rowCells px (py + r) (s.memRead (base + r)) := by
  induction n generalizing py base with
  | zero => rfl
  | succ n ih =>
    simp only [State.memReadList, spriteCells, ih, List.range_succ_eq_map, List.flatMap_cons, List.flatMap_map]
    simp [Nat.add_assoc, Nat.add_comm 1]

end Sys2Proof.Machine
end

