-- ==== Sys2Proof/Laws/PerInstr.lean ====
section
/-! SUPPORT. Statements made per instruction: the family RowSelected, that an instruction's word is selected by the row of
the opcode map that stands for it (spec/30_encoding.md R74). -/

namespace Sys2Proof.Laws.RowSelected

/-- The row of R74 that stands for `i` selects the word of `i`, for a well-formed `i`, and is one of the 34 rows. -/
def Statement (i : Instr) : Prop := i.wellFormed = true → (rowOf i).selects (encode i) = true ∧ rowOf i ∈ opcodeRows

/-! One lemma per format: the row's mask and bits select the word that the encoder lays out. -/

theorem selects_nnn {op : Nat} (h : op < 16) (nnn : BitVec 12) {b : Word} (hb : b.toNat = op * 4096) :
    (OpcodeRow.mk 0xF000 b).selects (wordNnn op nnn) = true := by
  have := nnn.isLt
  rw [selects_F000, wordNnn_toNat h, hb]
  omega

theorem selects_xkk {op : Nat} (h : op < 16) (x : Reg) (kk : Byte) {b : Word} (hb : b.toNat = op * 4096) :
    (OpcodeRow.mk 0xF000 b).selects (wordXkk op x kk) = true := by
  have := kk.isLt
  have := x.isLt
  rw [selects_F000, wordXkk_toNat h, hb]
  omega

theorem selects_xs {op : Nat} (h : op < 16) (x : Reg) (kk : Byte) {b : Word} (hb : b.toNat = op * 4096 + kk.toNat) :
    (OpcodeRow.mk 0xF0FF b).selects (wordXkk op x kk) = true := by
  have := kk.isLt
  have := x.isLt
  rw [selects_F0FF, wordXkk_toNat h, hb]
  omega

theorem selects_xyn {op n : Nat} (h : op < 16) (x y : Reg) (hn : n < 16) {b : Word} (hb : b.toNat = op * 4096 + n) :
    (OpcodeRow.mk 0xF00F b).selects (wordXyn op x y n) = true := by
  have := x.isLt
  have := y.isLt
  rw [selects_F00F, wordXyn_toNat h x y hn, hb]
  omega

theorem selects_xyn_F000 {op n : Nat} (h : op < 16) (x y : Reg) (hn : n < 16) {b : Word} (hb : b.toNat = op * 4096) :
    (OpcodeRow.mk 0xF000 b).selects (wordXyn op x y n) = true := by
  have := x.isLt
  have := y.isLt
  rw [selects_F000, wordXyn_toNat h x y hn, hb]
  omega

theorem cls : Statement (.cls) := fun _ => by decide
theorem ret : Statement (.ret) := fun _ => by decide
theorem jpNnn (nnn : BitVec 12) : Statement (.jpNnn nnn) := fun _ =>
  ⟨selects_nnn (by omega) nnn rfl, by simp [rowOf, opcodeRows]⟩
theorem callNnn (nnn : BitVec 12) : Statement (.callNnn nnn) := fun _ =>
  ⟨selects_nnn (by omega) nnn rfl, by simp [rowOf, opcodeRows]⟩
theorem seVxKk (x : Reg) (kk : Byte) : Statement (.seVxKk x kk) := fun _ =>
  ⟨selects_xkk (by omega) x kk rfl, by simp [rowOf, opcodeRows]⟩
theorem sneVxKk (x : Reg) (kk : Byte) : Statement (.sneVxKk x kk) := fun _ =>
  ⟨selects_xkk (by omega) x kk rfl, by simp [rowOf, opcodeRows]⟩
theorem seVxVy (x y : Reg) : Statement (.seVxVy x y) := fun _ =>
  ⟨selects_xyn (by omega) x y (by omega) rfl, by simp [rowOf, opcodeRows]⟩
theorem ldVxKk (x : Reg) (kk : Byte) : Statement (.ldVxKk x kk) := fun _ =>
  ⟨selects_xkk (by omega) x kk rfl, by simp [rowOf, opcodeRows]⟩
theorem addVxKk (x : Reg) (kk : Byte) : Statement (.addVxKk x kk) := fun _ =>
  ⟨selects_xkk (by omega) x kk rfl, by simp [rowOf, opcodeRows]⟩
theorem ldVxVy (x y : Reg) : Statement (.ldVxVy x y) := fun _ =>
  ⟨selects_xyn (by omega) x y (by omega) rfl, by simp [rowOf, opcodeRows]⟩
theorem orVxVy (x y : Reg) : Statement (.orVxVy x y) := fun _ =>
  ⟨selects_xyn (by omega) x y (by omega) rfl, by simp [rowOf, opcodeRows]⟩
theorem andVxVy (x y : Reg) : Statement (.andVxVy x y) := fun _ =>
  ⟨selects_xyn (by omega) x y (by omega) rfl, by simp [rowOf, opcodeRows]⟩
theorem xorVxVy (x y : Reg) : Statement (.xorVxVy x y) := fun _ =>
  ⟨selects_xyn (by omega) x y (by omega) rfl, by simp [rowOf, opcodeRows]⟩
theorem addVxVy (x y : Reg) : Statement (.addVxVy x y) := fun _ =>
  ⟨selects_xyn (by omega) x y (by omega) rfl, by simp [rowOf, opcodeRows]⟩
theorem subVxVy (x y : Reg) : Statement (.subVxVy x y) := fun _ =>
  ⟨selects_xyn (by omega) x y (by omega) rfl, by simp [rowOf, opcodeRows]⟩
theorem shrVx (x y : Reg) : Statement (.shrVx x y) := fun _ =>
  ⟨selects_xyn (by omega) x y (by omega) rfl, by simp [rowOf, opcodeRows]⟩
theorem subnVxVy (x y : Reg) : Statement (.subnVxVy x y) := fun _ =>
  ⟨selects_xyn (by omega) x y (by omega) rfl, by simp [rowOf, opcodeRows]⟩
theorem shlVx (x y : Reg) : Statement (.shlVx x y) := fun _ =>
  ⟨selects_xyn (by omega) x y (by omega) rfl, by simp [rowOf, opcodeRows]⟩
theorem sneVxVy (x y : Reg) : Statement (.sneVxVy x y) := fun _ =>
  ⟨selects_xyn (by omega) x y (by omega) rfl, by simp [rowOf, opcodeRows]⟩
theorem ldINnn (nnn : BitVec 12) : Statement (.ldINnn nnn) := fun _ =>
  ⟨selects_nnn (by omega) nnn rfl, by simp [rowOf, opcodeRows]⟩
theorem jpV0Nnn (nnn : BitVec 12) : Statement (.jpV0Nnn nnn) := fun _ =>
  ⟨selects_nnn (by omega) nnn rfl, by simp [rowOf, opcodeRows]⟩
theorem rndVxKk (x : Reg) (kk : Byte) : Statement (.rndVxKk x kk) := fun _ =>
  ⟨selects_xkk (by omega) x kk rfl, by simp [rowOf, opcodeRows]⟩
theorem drwVxVyN (x y : Reg) (n : Nat) : Statement (.drwVxVyN x y n) := fun h =>
  ⟨selects_xyn_F000 (by omega) x y (by simpa [Instr.wellFormed] using h) rfl, by simp [rowOf, opcodeRows]⟩
theorem skpVx (x : Reg) : Statement (.skpVx x) := fun _ =>
  ⟨selects_xs (by omega) x _ rfl, by simp [rowOf, opcodeRows]⟩
theorem sknpVx (x : Reg) : Statement (.sknpVx x) := fun _ =>
  ⟨selects_xs (by omega) x _ rfl, by simp [rowOf, opcodeRows]⟩
theorem ldVxDt (x : Reg) : Statement (.ldVxDt x) := fun _ =>
  ⟨selects_xs (by omega) x _ rfl, by simp [rowOf, opcodeRows]⟩
theorem ldVxK (x : Reg) : Statement (.ldVxK x) := fun _ =>
  ⟨selects_xs (by omega) x _ rfl, by simp [rowOf, opcodeRows]⟩
theorem ldDtVx (x : Reg) : Statement (.ldDtVx x) := fun _ =>
  ⟨selects_xs (by omega) x _ rfl, by simp [rowOf, opcodeRows]⟩
theorem ldStVx (x : Reg) : Statement (.ldStVx x) := fun _ =>
  ⟨selects_xs (by omega) x _ rfl, by simp [rowOf, opcodeRows]⟩
theorem addIVx (x : Reg) : Statement (.addIVx x) := fun _ =>
  ⟨selects_xs (by omega) x _ rfl, by simp [rowOf, opcodeRows]⟩
theorem ldFVx (x : Reg) : Statement (.ldFVx x) := fun _ =>
  ⟨selects_xs (by omega) x _ rfl, by simp [rowOf, opcodeRows]⟩
theorem ldBVx (x : Reg) : Statement (.ldBVx x) := fun _ =>
  ⟨selects_xs (by omega) x _ rfl, by simp [rowOf, opcodeRows]⟩
theorem ldMemIVx (x : Reg) : Statement (.ldMemIVx x) := fun _ =>
  ⟨selects_xs (by omega) x _ rfl, by simp [rowOf, opcodeRows]⟩
theorem ldVxMemI (x : Reg) : Statement (.ldVxMemI x) := fun _ =>
  ⟨selects_xs (by omega) x _ rfl, by simp [rowOf, opcodeRows]⟩

end Sys2Proof.Laws.RowSelected
end

