-- ==== Sys2Proof/Laws/Step.lean ====
section
/-! SUPPORT. The step and the host's run as equations; what the transactions and the end of a tick can change. -/

namespace Sys2Proof.Machine

variable (s : State)

/-! ### Runs -/

@[simp] theorem core_run_zero : Sys2Proof.core.run 0 s = .next s := rfl

/-- A run of one more step is that step, then the rest of the run. -/
theorem core_run_succ {t : State} (k : Nat) (h : step s = .next t) :
    Sys2Proof.core.run (k + 1) s = Sys2Proof.core.run k t := by
  have h' : Sys2Proof.core.step s = .next t := h
  simp only [Host.Core.run, h']

/-- A run of one more slot of a batch, when the slot does not raise. -/
theorem runSlots_succ {t : State} (k : Nat) (h : slotStep s = .next t) (hf : t.fault = none) :
    runSlots (k + 1) s = runSlots k t := by
  simp [runSlots, h, hf]

/-- A raise ends the batch. -/
theorem runSlots_succ_fault {t : State} (k : Nat) (h : slotStep s = .next t) (hf : t.fault ≠ none) :
    runSlots (k + 1) s = .next t := by
  have : t.fault.isSome = true := by simpa [Option.isSome_iff_ne_none] using hf
  simp [runSlots, h, this]

/-! ### Which part of the machine's step runs -/

/-- Between ticks with no transaction waiting, a step changes nothing. -/
theorem step_of_inbox_nil (h : s.betweenTicks = true) (hi : s.inbox = []) : step s = .next s := by
  simp [step, machineStep, h, hi]

/-- So does a run of any length. -/
theorem run_of_inbox_nil (h : s.betweenTicks = true) (hi : s.inbox = []) (k : Nat) : Sys2Proof.core.run k s = .next s := by
  induction k with
  | zero => rfl
  | succ k ih => rw [core_run_succ s k (step_of_inbox_nil s h hi), ih]

/-- A `Tick` that begins is a step of the tick. -/
theorem step_of_tick {rest : List HostEvent} (h : s.betweenTicks = true) (hi : s.inbox = .tick :: rest) :
    step s = tickStep { s with inbox := rest } := by
  simp [step, machineStep, h, hi, beginEvent]

/-- Inside a tick, a step is a step of the tick. -/
theorem step_of_inside (h : s.betweenTicks = false) : step s = tickStep s := by
  simp [step, machineStep, h]

/-- Between ticks, a step begins the oldest waiting transaction. -/
theorem step_of_event {e : HostEvent} {rest : List HostEvent} (h : s.betweenTicks = true) (hi : s.inbox = e :: rest) :
    step s = beginEvent e { s with inbox := rest } := by
  simp [step, machineStep, h, hi]

/-- A latched fault leaves the tick nothing to do. -/
theorem tickStep_halted (h : s.fault ≠ none) : tickStep s = .next s := by
  have : s.fault.isSome = true := by simpa [Option.isSome_iff_ne_none] using h
  simp [tickStep, this]

/-- The three things a step of the tick can be. -/
theorem tickStep_cases :
    (s.fault ≠ none ∧ tickStep s = .next s) ∨
    (s.fault = none ∧ s.slot < s.cfg.ipt ∧ tickStep s = slotStep s) ∨
    (s.fault = none ∧ s.cfg.ipt ≤ s.slot ∧ tickStep s = .next s.tickEnd) := by
  by_cases hf : s.fault = none
  · by_cases hs : s.slot < s.cfg.ipt
    · exact .inr (.inl ⟨hf, hs, by simp [tickStep, hf, hs]⟩)
    · exact .inr (.inr ⟨hf, by omega, by simp [tickStep, hf, hs]⟩)
  · exact .inl ⟨hf, tickStep_halted s hf⟩

/-! ### What the transactions and the end of a tick can change -/

theorem load_eq (bytes : List Byte) : (s.load bytes).1 = { s with mem := (s.load bytes).1.mem } := by
  unfold State.load
  split
  · rfl
  · split
    · rfl
    · exact memWriteList_eq ..

theorem keyDown_eq (k : Key) :
    s.keyDown k = { s with v := (s.keyDown k).v, wait := (s.keyDown k).wait, keys := (s.keyDown k).keys } := by
  unfold State.keyDown State.deliverKey
  split <;> rfl

/-! ### Transactions other than Tick -/

/-- Between ticks, a transaction other than `Tick` is one step. -/
theorem step_of_transaction {e : HostEvent} {rest : List HostEvent} (h : s.betweenTicks = true) (hi : s.inbox = e :: rest)
    (he : e ≠ .tick) : step s = .next ({ s with inbox := rest }.transact e) := by
  rw [step_of_event s h hi]
  cases e with
  | tick => exact absurd rfl he
  | _ => rfl

/-- A transaction neither reads nor writes the list of those that wait. -/
theorem transact_inbox (e : HostEvent) (l : List HostEvent) :
    { s with inbox := l }.transact e = { s.transact e with inbox := l } := by
  cases e with
  | load bytes =>
    rcases hf : s.fault with _ | r
    · by_cases hl : Config.maxImage < bytes.length
      · simp only [State.transact, State.load, hf, if_pos hl]
      · simp only [State.transact, State.load, hf, if_neg hl]
        rw [← hf]
        exact memWriteList_inbox s _ _ l
    · simp only [State.transact, State.load, hf]
  | keyDown k =>
    by_cases h : (s.fault.isNone && s.wait) = true <;>
      simp [State.transact, State.keyDown, State.deliverKey, State.setKey, State.writeV, h]
  | _ => rfl

/-- A transaction other than `Tick` leaves the machine between ticks. -/
theorem transact_betweenTicks (e : HostEvent) (h : s.betweenTicks = true) : (s.transact e).betweenTicks = true := by
  cases e with
  | reset => rfl
  | load bytes => simp only [State.transact]; rw [load_eq]; exact h
  | keyDown k => simp only [State.transact]; rw [keyDown_eq]; exact h
  | _ => exact h

theorem tickEnd_eq :
    s.tickEnd = { s with dt := s.tickEnd.dt, st := s.tickEnd.st, tone := s.tickEnd.tone, ports := s.tickEnd.ports, slot := 0 } := by
  unfold State.tickEnd State.toneStep State.timerStep
  repeat' split
  all_goals rfl

theorem skipIf_eq (c : Bool) : s.skipIf c = { s with pc := (s.skipIf c).pc } := by
  unfold State.skipIf
  split <;> rfl

theorem drawEffect_eq (x y : Reg) (n : Nat) : s.drawEffect x y n =
    { s with v := (s.drawEffect x y n).v, disp := (s.drawEffect x y n).disp, ports := (s.drawEffect x y n).ports } := by
  unfold State.drawEffect
  rw [writeV_eq, toggleAll_eq]

/-! ### The word placed for the next step -/

theorem readyToFetch_pc : s.readyToFetch.pc.toNat ≤ 0xFFE := by
  show (if s.pc.toNat ≤ 0xFFE then s.pc else 0x200).toNat ≤ 0xFFE
  split
  · assumption
  · decide

end Sys2Proof.Machine
end

