-- ==== Sys2Proof/Tests/Slice0.lean ====
section
/-! SUPPORT. Tests of one step each, with the vectors of spec/95_test_vectors.md, and a witness for each statement that has
hypotheses. -/

namespace Sys2Proof.Tests

open Machine

/-! ### Helpers -/

/-- The outcome is a next state of which `p` holds. -/
def after (o : Host.Outcome State Fault Refusal) (p : State → Bool) : Bool :=
  match o with
  | .next t => p t
  | .fault _ => false
  | .refused _ => false

/-- The reset state with the given register values. -/
def withRegs (rs : List (Reg × Byte)) : State := rs.foldl (fun s r => s.writeV r.1 r.2) State.reset

/-- The reset state with a `Tick` issued by the host. -/
def ticking : State := { State.reset with inbox := [.tick] }

/-- One step that runs the word `w`, placed at PC, from `s`. -/
def runWord (w : Nat) (s : State) (p : State → Bool) : Bool := after (step (s.withFetchWord 16 w)) p

/-- The fault record's error and address. -/
def faultIs (t : State) (e : FatalError) (a : Word) : Bool := decide (t.fault = some ⟨e, a⟩)

/-- A word that decodes to nothing. -/
def isUndefined (w : Word) : Bool :=
  match decode w with
  | .instr _ => false
  | .undefinedWord u => decide (u = w)

/-! ### WellFormed: the one check refuses a row count that 4 bits cannot hold -/

theorem test_wellFormed_refuses_sixteen_rows : (Instr.drwVxVyN 0 1 16).wellFormed = false := by decide
theorem test_wellFormed_admits_fifteen_rows : (Instr.drwVxVyN 0 1 15).wellFormed = true := by decide

/-! ### Decode: a word written out from R74 for each constructor (R72's bit positions) -/

theorem test_decode_fixed : decode 0x00E0 = .instr .cls ∧ decode 0x00EE = .instr .ret := by decide
theorem test_decode_nnn : decode 0x1ABC = .instr (.jpNnn 0xABC) ∧ decode 0x2ABC = .instr (.callNnn 0xABC) ∧
    decode 0xAABC = .instr (.ldINnn 0xABC) ∧ decode 0xBABC = .instr (.jpV0Nnn 0xABC) := by decide
theorem test_decode_xkk : decode 0x3A5C = .instr (.seVxKk 10 0x5C) ∧ decode 0x4A5C = .instr (.sneVxKk 10 0x5C) ∧
    decode 0x6A5C = .instr (.ldVxKk 10 0x5C) ∧ decode 0x7A5C = .instr (.addVxKk 10 0x5C) ∧
    decode 0xCA5C = .instr (.rndVxKk 10 0x5C) := by decide
theorem test_decode_xy_skips : decode 0x5AB0 = .instr (.seVxVy 10 11) ∧ decode 0x9AB0 = .instr (.sneVxVy 10 11) := by decide
theorem test_decode_xy_alu : decode 0x8AB0 = .instr (.ldVxVy 10 11) ∧ decode 0x8AB1 = .instr (.orVxVy 10 11) ∧
    decode 0x8AB2 = .instr (.andVxVy 10 11) ∧ decode 0x8AB3 = .instr (.xorVxVy 10 11) ∧
    decode 0x8AB4 = .instr (.addVxVy 10 11) := by decide
theorem test_decode_xy_flags : decode 0x8AB5 = .instr (.subVxVy 10 11) ∧ decode 0x8AB6 = .instr (.shrVx 10 11) ∧
    decode 0x8AB7 = .instr (.subnVxVy 10 11) ∧ decode 0x8ABE = .instr (.shlVx 10 11) := by decide
theorem test_decode_xyn : decode 0xD4A7 = .instr (.drwVxVyN 4 10 7) := by decide
theorem test_decode_xs_keys : decode 0xEA9E = .instr (.skpVx 10) ∧ decode 0xEAA1 = .instr (.sknpVx 10) ∧
    decode 0xFA0A = .instr (.ldVxK 10) := by decide
theorem test_decode_xs_timers : decode 0xFA07 = .instr (.ldVxDt 10) ∧ decode 0xFA15 = .instr (.ldDtVx 10) ∧
    decode 0xFA18 = .instr (.ldStVx 10) := by decide
theorem test_decode_xs_index : decode 0xFA1E = .instr (.addIVx 10) ∧ decode 0xFA29 = .instr (.ldFVx 10) ∧
    decode 0xFA33 = .instr (.ldBVx 10) ∧ decode 0xFA55 = .instr (.ldMemIVx 10) ∧ decode 0xFA65 = .instr (.ldVxMemI 10) := by
  decide
/-- V1.4. -/
theorem test_decode_undefined : ([0x0000, 0x00E1, 0x0123, 0x5001, 0x8008, 0x800F, 0x9001, 0xE000, 0xE09F, 0xF000, 0xF056,
    0xFFFF] : List Word).all isUndefined = true := by decide
theorem test_decodeTableWord : decodeTableWord 16 0xD4A7 = some (.drwVxVyN 4 10 7) ∧ decodeTableWord 16 0x0000 = none ∧
    decodeTableWord 16 0x1D4A7 = none := by decide

/-! ### Fetch -/

/-- V1.1: big-endian. -/
theorem test_fetch_big_endian :
    after (step (ticking.memWriteList 0x200 [0x12, 0x34])) (fun t => t.pc == 0x234) = true := by decide
/-- V1.6: an odd PC. -/
theorem test_fetch_odd_pc :
    runWord 0x602A { State.reset with pc := 0x203 } (fun t => t.readV 0 == 0x2A && t.pc == 0x205) = true := by decide
/-- V2.18: byte 0xFFF is readable, byte 0x1000 is not. -/
theorem test_fetch_at_last_byte :
    after (step { ticking with pc := 0xFFF }) (fun t => faultIs t (.memoryOutOfBounds 0x1000) 0xFFF && t.pc == 0xFFF)
      = true := by decide
/-- V7.1: a tick with nothing loaded. -/
theorem test_fetch_empty_memory :
    after (step ticking) (fun t => faultIs t (.decodeError 0x0000) 0x200 && t.pc == 0x202 && t.ports.isEmpty) = true := by
  decide

/-! ### Control flow -/

/-- V2.1. -/
theorem test_jp : runWord 0x1ABC State.reset (fun t => t.pc == 0xABC && t.stack.isEmpty) = true := by decide
/-- V2.3. -/
theorem test_call : runWord 0x2300 State.reset (fun t => t.pc == 0x300 && t.stack == [0x202]) = true := by decide
/-- V7.4: STACK_DEPTH = 2. -/
theorem test_call_overflow :
    runWord 0x2200 { State.reset with stack := [0x202, 0x202], cfg := { defaultConfig with stackDepth := some 2 } }
      (fun t => faultIs t .stackOverflow 0x200 && t.pc == 0x202 && t.stack.length == 2) = true := by decide
/-- V2.4: 0x208 on top. -/
theorem test_ret :
    runWord 0x00EE { State.reset with stack := [0x208, 0x202], pc := 0x20E } (fun t => t.pc == 0x208 && t.stack == [0x202])
      = true := by decide
/-- V7.2. -/
theorem test_ret_underflow :
    runWord 0x00EE State.reset (fun t => faultIs t .stackUnderflow 0x200 && t.pc == 0x202) = true := by decide
/-- V2.8: the register is V0, never Vx. -/
theorem test_jpV0 : runWord 0xB300 (withRegs [(3, 0x55), (0, 0x10)]) (fun t => t.pc == 0x310) = true := by decide
/-- V2.6. -/
theorem test_jpV0_unmasked : runWord 0xBFFF (withRegs [(0, 0xFF)]) (fun t => t.pc == 0x10FE && t.fault.isNone) = true := by
  decide
/-- V2.9. -/
theorem test_se_kk : runWord 0x312A (withRegs [(1, 0x2A)]) (fun t => t.pc == 0x204) = true := by decide
/-- V2.14: the flag 0x80 is not 1. -/
theorem test_se_kk_flag : runWord 0x3F01 (withRegs [(15, 0x80)]) (fun t => t.pc == 0x202) = true := by decide
/-- V2.10. -/
theorem test_sne_kk : runWord 0x412A (withRegs [(1, 0x2A)]) (fun t => t.pc == 0x202) = true := by decide
/-- V2.10. -/
theorem test_sne_kk_taken : runWord 0x412B (withRegs [(1, 0x2A)]) (fun t => t.pc == 0x204) = true := by decide
/-- V2.11. -/
theorem test_se_vy : runWord 0x5120 (withRegs [(1, 7), (2, 7)]) (fun t => t.pc == 0x204) = true := by decide
/-- V2.12. -/
theorem test_se_vy_not : runWord 0x5120 (withRegs [(1, 7), (2, 8)]) (fun t => t.pc == 0x202) = true := by decide
/-- V2.12. -/
theorem test_sne_vy : runWord 0x9120 (withRegs [(1, 7), (2, 8)]) (fun t => t.pc == 0x204) = true := by decide
/-- V2.13: x = y. -/
theorem test_sne_vy_same : runWord 0x9330 (withRegs [(3, 9)]) (fun t => t.pc == 0x202) = true := by decide

/-! ### ALU -/

/-- V3.1. -/
theorem test_ld_kk : runWord 0x63AB (withRegs [(3, 0x12)]) (fun t => t.readV 3 == 0xAB && t.pc == 0x202) = true := by decide
/-- V3.2: VF is not written. -/
theorem test_add_kk_wraps : runWord 0x7002 (withRegs [(0, 0xFF), (15, 9)]) (fun t => t.readV 0 == 1 && t.readV 15 == 9) = true := by
  decide
/-- V3.4. -/
theorem test_ld_vy : runWord 0x8010 (withRegs [(1, 0x55)]) (fun t => t.readV 0 == 0x55 && t.readV 1 == 0x55) = true := by decide
/-- V3.5. -/
theorem test_or : runWord 0x8011 (withRegs [(0, 0xAA), (1, 0x55), (15, 3)]) (fun t => t.readV 0 == 0xFF && t.readV 15 == 3)
    = true := by decide
/-- V3.6. -/
theorem test_and : runWord 0x8232 (withRegs [(2, 0x33), (3, 0x0F)]) (fun t => t.readV 2 == 0x03) = true := by decide
/-- V3.7. -/
theorem test_xor : runWord 0x8433 (withRegs [(4, 0xFF), (3, 0x0F)]) (fun t => t.readV 4 == 0xF0) = true := by decide
/-- V3.9: no carry is reported. -/
theorem test_add_vy : runWord 0x8124 (withRegs [(1, 0xFF), (2, 1), (15, 0x55)]) (fun t => t.readV 1 == 0 && t.readV 15 == 0)
    = true := by decide
/-- V3.13: x = F, the sum is overwritten. -/
theorem test_add_vy_into_vf : runWord 0x8F04 (withRegs [(15, 7), (0, 2)]) (fun t => t.readV 15 == 0) = true := by decide
/-- V3.16. -/
theorem test_sub_borrow : runWord 0x8125 (withRegs [(1, 3), (2, 5), (15, 1)]) (fun t => t.readV 1 == 0xFE && t.readV 15 == 0)
    = true := by decide
/-- V3.19: x = F, 1 - 3. -/
theorem test_sub_into_vf : runWord 0x8F05 (withRegs [(15, 5), (0, 3)]) (fun t => t.readV 15 == 0xFE) = true := by decide
/-- V3.23: Vy is not read. -/
theorem test_shr : runWord 0x8126 (withRegs [(1, 5), (2, 0xFF)]) (fun t => t.readV 1 == 2 && t.readV 15 == 1 && t.readV 2 == 0xFF)
    = true := by decide
/-- V3.25. -/
theorem test_shr_vf : runWord 0x8F06 (withRegs [(15, 0xFF)]) (fun t => t.readV 15 == 0) = true := by decide
/-- V3.26. -/
theorem test_subn : runWord 0x8127 (withRegs [(1, 3), (2, 5)]) (fun t => t.readV 1 == 2 && t.readV 15 == 1) = true := by decide
/-- V3.30: y = F, the new flag is the minuend. -/
theorem test_subn_from_vf : runWord 0x81F7 (withRegs [(1, 5), (15, 9)]) (fun t => t.readV 15 == 1 && t.readV 1 == 0xFC)
    = true := by decide
/-- V3.31: the raw high bit. -/
theorem test_shl : runWord 0x810E (withRegs [(1, 0x81)]) (fun t => t.readV 1 == 2 && t.readV 15 == 0x80) = true := by decide
/-- V3.33. -/
theorem test_shl_vf : runWord 0x8F0E (withRegs [(15, 0x81)]) (fun t => t.readV 15 == 0) = true := by decide
/-- V3.35: the draw 0xAB given. -/
theorem test_rnd_with : ((rndWith 0xAB 1 0x0F State.reset).readV 1 == 0x0B) = true := by decide
/-- A fresh draw each time: the serial number moves on. -/
theorem test_rnd_draws : runWord 0xC200 State.reset (fun t => t.draws == 1 && t.pc == 0x202) = true := by decide

/-! ### Address register and memory -/

/-- V4.1. -/
theorem test_ld_i : runWord 0xA2F0 (State.reset.setI 0xFFFF) (fun t => t.iReg == 0x02F0) = true := by decide
/-- V4.4. -/
theorem test_add_i_wraps : runWord 0xF01E ((withRegs [(0, 2)]).setI 0xFFFF) (fun t => t.iReg == 1) = true := by decide
/-- V4.3: no mask to 12 bits, VF unchanged. -/
theorem test_add_i_unmasked : runWord 0xF01E ((withRegs [(0, 1), (15, 7)]).setI 0x0FFF)
    (fun t => t.iReg == 0x1000 && t.readV 15 == 7) = true := by decide
/-- V4.6: Vx is not masked. -/
theorem test_ld_f : runWord 0xF329 (withRegs [(3, 0xFF)]) (fun t => t.iReg == 0x04FB) = true := by decide
/-- V4.8: the last three bytes of memory. -/
theorem test_bcd_at_top : runWord 0xF033 ((withRegs [(0, 0xFF)]).setI 0xFFD)
    (fun t => t.memReadList 0xFFD 3 == [2, 5, 5] && t.fault.isNone) = true := by decide
/-- V4.9. -/
theorem test_bcd_out_of_bounds : runWord 0xF033 ({ withRegs [(0, 0xFF)] with pc := 0x202 }.setI 0xFFE)
    (fun t => faultIs t (.memoryOutOfBounds 0x1000) 0x202 && t.memReadList 0xFFE 2 == [0, 0]) = true := by decide
/-- R154's example. -/
theorem test_store_regs : runWord 0xF255 ((withRegs [(0, 0x11), (1, 0x22), (2, 0x33), (3, 0x44)]).setI 0x400)
    (fun t => t.memReadList 0x400 4 == [0x11, 0x22, 0x33, 0] && t.iReg == 0x400) = true := by decide
/-- V4.12: no byte is written. -/
theorem test_store_regs_out_of_bounds : runWord 0xFF55 ((withRegs [(0, 0x11)]).setI 0xFF1)
    (fun t => faultIs t (.memoryOutOfBounds 0x1000) 0x200 && t.memRead 0xFF1 == 0) = true := by decide
/-- V4.17: glyph 0 of the default font read as data. -/
theorem test_load_regs_font : runWord 0xF465 (withRegs [(5, 7)])
    (fun t => t.regsBelow 6 == [0xF0, 0x90, 0x90, 0x90, 0xF0, 7]) = true := by decide
/-- V4.14. -/
theorem test_load_regs_out_of_bounds : runWord 0xF165 ((withRegs [(0, 9)]).setI 0xFFF)
    (fun t => faultIs t (.memoryOutOfBounds 0x1000) 0x200 && t.readV 0 == 9) = true := by decide

/-! ### Display -/

/-- V5.1. -/
theorem test_cls : runWord 0x00E0 ((State.reset.dispToggle 1 1).dispToggle 63 31)
    (fun t => !t.disp.cell 1 1 && !t.disp.cell 63 31) = true := by decide
/-- V5.4: one cell that goes unset is enough. -/
theorem test_draw_collision : runWord 0xD011 ((((withRegs [(0, 5), (1, 2)]).setI 0x300).memWrite 0x300 0xC0).dispToggle 6 2)
    (fun t => t.disp.cell 5 2 && !t.disp.cell 6 2 && t.readV 15 == 1) = true := by decide
/-- V5.6: the check comes before every toggle. -/
theorem test_draw_off_grid : runWord 0xD011 (((withRegs [(0, 62), (15, 7)]).setI 0x300).memWrite 0x300 0xE0)
    (fun t => faultIs t (.drawOutOfGrid 64 0) 0x200 && !t.disp.cell 62 0 && t.readV 15 == 7) = true := by decide

/-! ### Keys and timers -/

/-- V6.1. -/
theorem test_skp : runWord 0xE09E ((withRegs [(0, 15)]).setKey 15 true) (fun t => t.pc == 0x204) = true := by decide
/-- V6.5. -/
theorem test_skp_out_of_range : runWord 0xE09E { withRegs [(0, 0x10)] with pc := 0x202 }
    (fun t => faultIs t (.keyIndexOutOfRange 0x10) 0x202 && t.pc == 0x204) = true := by decide
/-- V6.3. -/
theorem test_sknp : runWord 0xE0A1 (withRegs [(0, 15)]) (fun t => t.pc == 0x204) = true := by decide
/-- V6.4. -/
theorem test_sknp_not : runWord 0xE0A1 ((withRegs [(0, 15)]).setKey 15 true) (fun t => t.pc == 0x202) = true := by decide
/-- V6.7. -/
theorem test_ld_vx_dt : runWord 0xF307 (State.reset.setDt 0x2A) (fun t => t.readV 3 == 0x2A && t.dt == 0x2A) = true := by decide
/-- V6.8. -/
theorem test_ld_dt_vx : runWord 0xF315 (withRegs [(3, 0xFF)]) (fun t => t.dt == 0xFF && t.st == 0) = true := by decide
/-- V6.9. -/
theorem test_ld_st_vx : runWord 0xF318 (withRegs [(3, 5)]) (fun t => t.st == 5 && t.dt == 0) = true := by decide
/-- V6.13. -/
theorem test_wait : runWord 0xF30A (withRegs [(3, 9)])
    (fun t => t.wait && t.waitReg == 3 && t.pc == 0x202 && t.readV 3 == 9) = true := by decide
/-- V6.14. -/
theorem test_keyDown : (((State.reset.setWait 3).keyDown 7).readV 3 == 7 && !((State.reset.setWait 3).keyDown 7).wait) = true := by
  decide
/-- V6.15, V6.16. -/
theorem test_key_levels : ((State.reset.keyDown 7).keyPressed 7 && (State.reset.keyDown 7).readV 0 == 0 &&
    ((State.reset.setWait 3).keyUp 7).wait) = true := by decide

/-! ### Tick, load, reset -/

/-- V7.15: a tick that starts waiting. -/
theorem test_waiting_tick_end : ((fun t : State => t.dt == 9 && t.st == 5 && t.tone && t.ports.length == 2)
    { State.reset with wait := true, dt := 9, st := 5, slot := 10 }.tickEnd) = true := by decide
/-- V6.11: ST = 1 in the batch makes no sound. -/
theorem test_tick_end_silent : (State.reset.setSt 1).tickEnd.tone = false ∧ (State.reset.setSt 2).tickEnd.tone = true ∧
    (State.reset.setSt 1).tickEnd.ports = [.dispFlush, .toneStop] := by decide
/-- V7.9, V7.11. -/
theorem test_load : (State.reset.load (List.replicate 3585 0)).2 = .loadTooLarge ∧
    (State.reset.load [0x12, 0x34]).1.memReadList 0x1FF 4 = [0, 0x12, 0x34, 0] := by
  refine ⟨?_, by decide⟩
  unfold State.load
  rw [show State.reset.fault = none from rfl]
  dsimp only
  rw [if_pos (by rw [List.length_replicate]; decide)]
/-- R231: nothing executes until the host issues a `Tick`. -/
theorem test_waits_for_the_host : after (step State.reset) (fun t => t.pc == 0x200 && t.fault.isNone) = true := by decide
/-- V7.7: a halted machine's tick changes nothing. -/
theorem test_halted_step :
    after (step (ticking.raise .stackUnderflow)) (fun t => faultIs t .stackUnderflow 0x1FE && t.pc == 0x200) = true := by
  decide
/-- V6.14 as a transaction between ticks. -/
theorem test_event_between_ticks :
    after (step { State.reset with inbox := [.keyDown 7, .tick], wait := true, waitReg := 3 })
      (fun t => t.readV 3 == 7 && !t.wait && t.inbox == [.tick]) = true := by decide
theorem test_reset_memory : State.reset.memRead 0 = 0xF0 ∧ State.reset.memRead 0x4F = 0x80 ∧ State.reset.memRead 0x50 = 0 := by
  decide

/-! ### Witnesses: for each statement with hypotheses, a state and operands that meet them -/

theorem witness_DecodeOfEncodeIsTheInstruction : (Instr.drwVxVyN 15 15 15).wellFormed = true := by decide
theorem witness_EncodeOfDecodeIsTheWord : decode 0xDFFF = .instr (.drwVxVyN 15 15 15) := by decide
theorem witness_DecodeFollowsTheOpcodeTable :
    decode 0xF165 = .instr (.ldVxMemI 1) ∧ decode 0x0000 = .undefinedWord 0 ∧
    ∀ r ∈ opcodeRows, r.selects 0x0000 = false := by decide
theorem witness_OpcodePatternsAreDisjoint :
    (⟨0xF00F, 0x800E⟩ : OpcodeRow) ∈ opcodeRows ∧ (⟨0xF00F, 0x800E⟩ : OpcodeRow).selects 0x8F0E = true := by decide
theorem witness_CallPushesPcOrOverflows_full :
    let s : State := { State.reset with stack := List.replicate 16 0x202 }
    s.cfg.stackDepth = some s.stack.length := by decide
theorem witness_CallPushesPcOrOverflows_room :
    let s : State := { State.reset with stack := List.replicate 15 0x202 }
    s.cfg.stackDepth ≠ some s.stack.length := by decide
theorem witness_ReturnPopsPcOrUnderflows : State.reset.stack = [] ∧ (State.reset.push 0x202).stack = 0x202 :: [] := by decide
theorem witness_RegisterSkips : fieldOp 0x5001 = 5 ∧ fieldN 0x5001 ≠ 0 ∧ fieldOp 0x900F = 9 ∧ fieldN 0x900F ≠ 0 := by decide
/-- x other than F for 8xy4, 8xy5, 8xy6, 8xy7, 8xyE; and for the two subtractions each of the four cases of x and y. -/
theorem witness_flag_cases : (14 : Reg) ≠ regF ∧ (0 : Reg) ≠ regF ∧ (15 : Reg) = regF := by decide
theorem witness_RandomMasksADraw : (0xFF : Byte) = 0xFF := by decide
theorem witness_RandomResultsAreTheSubmasks :
    (∃ r : Byte, r.toNat ≤ 254 ∧ (rndWith r 0 0xFF State.reset).readV 0 = 254) ∧ ((254 : Byte) &&& 0xFF = 254) :=
  ⟨⟨254, by decide, by decide⟩, by decide⟩
theorem witness_BcdStoresThreeDigits :
    4096 ≤ (State.reset.setI 0xFFE).iReg.toNat + 2 ∧ (State.reset.setI 0xFFD).iReg.toNat + 2 < 4096 := by decide
theorem witness_RegisterStore :
    4096 ≤ (State.reset.setI 0xFF1).iReg.toNat + (15 : Reg).val ∧ (State.reset.setI 0xFF0).iReg.toNat + (15 : Reg).val < 4096 := by
  decide
theorem witness_RegisterLoad :
    4096 ≤ (State.reset.setI 0x1000).iReg.toNat + (0 : Reg).val ∧ (State.reset.setI 0xFFF).iReg.toNat + (0 : Reg).val < 4096 ∧
    (0 : Reg) ≤ 0 ∧ (0 : Reg) < 1 := by decide
theorem witness_StoreThenLoadRoundTrips : (State.reset.setI 0xFF0).iReg.toNat + (15 : Reg).val < 4096 := by decide
theorem witness_StoresAreSeenByFetch :
    (State.reset.setI 0x200).iReg.toNat + (1 : Reg).val < 4096 ∧ (State.reset.setI 0x200).iReg = (State.reset.setI 0x200).pc ∧
    1 ≤ (1 : Reg).val := by decide
theorem witness_CanonicalMemoriesAreEqualData :
    Memory.wf defaultFont [(0, 1), (0xFFF, 1)] = true ∧
    ∀ a, Memory.read defaultFont [(0, 1), (0xFFF, 1)] a = Memory.read defaultFont [(0, 1), (0xFFF, 1)] a :=
  ⟨by decide, fun _ => rfl⟩

/-- A one-row sprite of all eight columns at the bottom right of the grid, at the raw coordinates `px`, `py`. -/
def spriteAt (px py row : Byte) : State := ((withRegs [(0, px), (1, py)]).setI 0xFFF).memWrite 0xFFF row

theorem witness_DrawXorsTheSprite :
    let s := spriteAt 120 63 0xFF
    (1 < 16) ∧ (1 = 0 ∨ s.iReg.toNat + 1 ≤ 4096) ∧ s.spriteFits 0 1 1 := by
  refine ⟨by decide, by decide, ?_⟩
  unfold State.spriteFits
  decide
theorem witness_DrawXorsTheSprite_covered : (spriteAt 120 63 0xFF).spriteCovers 0 1 1 63 31 :=
  ⟨0, 7, by decide, by decide, by decide, by decide, by decide⟩
theorem witness_DrawXorsTheSprite_collision :
    let s := (spriteAt 120 63 0xFF).dispToggle 63 31
    s.spriteCovers 0 1 1 63 31 ∧ s.disp.cell 63 31 = true :=
  ⟨⟨0, 7, by decide, by decide, by decide, by decide, by decide⟩, by decide⟩
theorem witness_DrawXorsTheSprite_no_row :
    let s := spriteAt 64 32 0xFF
    (0 < 16) ∧ (0 = 0 ∨ s.iReg.toNat + 0 ≤ 4096) ∧ s.spriteFits 0 1 0 ∧ ∀ qx qy, ¬s.spriteCovers 0 1 0 qx qy := by
  refine ⟨by decide, by decide, ?_, ?_⟩
  · intro r hr
    omega
  · rintro qx qy ⟨r, c, hr, _⟩
    omega
theorem witness_DrawErrors_memory : 0 < 2 ∧ 4096 < (spriteAt 64 0 0xFF).iReg.toNat + 2 := by decide
theorem witness_DrawErrors_grid :
    let s := spriteAt 62 0 0xE0
    s.iReg.toNat + 1 ≤ 4096 ∧ (s.memRead (s.iReg.toNat + 0)).getLsbD (7 - 2) = true ∧
    inGrid ((s.readV 0).toNat + 2) ((s.readV 1).toNat + 0) = false ∧
    (∀ r', r' < 1 → ∀ c', c' < 8 → (r' < 0 ∨ r' = 0 ∧ c' < 2) →
      (s.memRead (s.iReg.toNat + r')).getLsbD (7 - c') = true →
      inGrid ((s.readV 0).toNat + c') ((s.readV 1).toNat + r') = true) := by decide
/-- The ends of each range of R167's table; both answers of the clause on the grid are met. -/
theorem witness_CoordinateCorrection :
    ([0, 63, 65, 127] : List Nat).all (fun px => inGrid px 0) = true ∧ ([64, 128, 262] : List Nat).all (fun px => !inGrid px 0) = true ∧
    ([0, 31, 33, 63] : List Nat).all (fun py => inGrid 0 py) = true ∧ ([32, 64, 269] : List Nat).all (fun py => !inGrid 0 py) = true := by
  decide
theorem witness_DrawingTwiceRestoresTheDisplay :
    let s := spriteAt 120 63 0xFF
    (1 < 16) ∧ (0 : Reg) ≠ regF ∧ (1 : Reg) ≠ regF ∧ (1 = 0 ∨ s.iReg.toNat + 1 ≤ 4096) ∧ s.spriteFits 0 1 1 ∧
    s.spriteCovers 0 1 1 63 31 ∧ s.disp.cell 63 31 = false := by
  refine ⟨by decide, by decide, by decide, by decide, ?_, ⟨0, 7, by decide, by decide, by decide, by decide, by decide⟩, by decide⟩
  unfold State.spriteFits
  decide
theorem witness_KeySkips :
    fieldOp 0xEF9E = 0xE ∧ fieldKk 0xEF9E = 0x9E ∧ fieldOp 0xE0A1 = 0xE ∧ fieldKk 0xE0A1 = 0xA1 ∧
    15 < ((withRegs [(0, 16)]).readV 0).toNat ∧ ((withRegs [(0, 15)]).readV 0).toNat = (15 : Key).val := by decide
theorem witness_KeyWaitStopsTheBatch : State.reset.fault = none := by decide
theorem witness_KeyDownDelivers :
    (State.reset.setWait 15).fault = none ∧ (State.reset.setWait 15).wait = true ∧ (1 : Key) ≠ 0 ∧
    State.reset.wait = false ∧ (State.reset.raise .stackUnderflow).fault ≠ none := by decide
theorem witness_FaultsArePrecise :
    State.reset.fault = none ∧ exec .ret State.reset = .next (State.reset.raise .stackUnderflow) ∧
    (State.reset.raise .stackUnderflow).fault ≠ none := ⟨by decide, rfl, by decide⟩
theorem witness_InstructionFrames : exec (.ldVxKk 1 2) State.reset = .next (State.reset.writeV 1 2) := rfl
theorem witness_InstructionsKeepOtherBytes :
    (Instr.ldVxKk 1 2).writesMemory = false ∧ exec (.ldVxKk 1 2) State.reset = .next (State.reset.writeV 1 2) ∧
    exec (.ldBVx 0) State.reset = .next (State.reset.memWriteList 0 [0, 0, 0]) ∧
    exec (.ldMemIVx 0) State.reset = .next (State.reset.memWriteList 0 [0]) := ⟨rfl, rfl, rfl, rfl⟩
theorem witness_NestedCallsAndReturnsRestore :
    ∀ d, State.reset.cfg.stackDepth = some d → State.reset.stack.length + (List.replicate 16 (0x300 : BitVec 12)).length ≤ d := by
  intro d h
  cases h
  decide

/-- The reset state with a `Tick` issued is one whose next step fetches. -/
theorem ticking_fetches : ticking.fetches := ⟨rfl, rfl, by decide, fun _ => rfl⟩

theorem witness_StepRunsTheDecodedInstruction :
    let s : State := { ticking.memWriteList 0xFFE [0x60, 0x01] with pc := 0xFFE }
    s.fetches ∧ s.pc.toNat ≤ 0xFFE ∧ decodeBytes (s.memRead s.pc.toNat) (s.memRead (s.pc.toNat + 1)) = .instr (.ldVxKk 0 1) :=
  ⟨⟨by decide, by decide, by decide, fun _ => by decide⟩, by decide, by decide⟩
/-- The last slot of a tick fetches too, whatever the host has issued meanwhile. -/
theorem witness_StepRunsTheDecodedInstruction_inside :
    let s : State := { State.reset.memWriteList 0x200 [0x60, 0x01] with slot := 9, inbox := [.reset] }
    s.fetches ∧ after (step s) (fun t => t.readV 0 == 1 && t.slot == 10 && t.inbox == [.reset]) = true :=
  ⟨⟨by decide, by decide, by decide, fun h => by cases h⟩, by decide⟩
theorem witness_UndefinedWordRaisesDecodeError :
    ticking.fetches ∧ ticking.pc.toNat ≤ 0xFFE ∧
    decodeBytes (ticking.memRead ticking.pc.toNat) (ticking.memRead (ticking.pc.toNat + 1)) = .undefinedWord 0 :=
  ⟨ticking_fetches, by decide, by decide⟩
theorem witness_FetchOutOfBoundsKeepsPc :
    let s : State := { ticking with pc := 0xFFF }
    s.fetches ∧ 0xFFE < s.pc.toNat := ⟨⟨rfl, rfl, by decide, fun _ => rfl⟩, by decide⟩
theorem witness_PlacedInstructionRunsNext : (Instr.cls).wellFormed = true := by decide
theorem witness_HaltedMachineIsStuck :
    (State.reset.raise .stackUnderflow).fault = some ⟨.stackUnderflow, 0x1FE⟩ ∧ (State.reset.raise .stackUnderflow).inbox = [] := by
  decide
/-- The machine halted, with one transaction waiting. -/
def haltedWith (e : HostEvent) : State := { State.reset.raise .stackUnderflow with inbox := [e] }

theorem witness_HaltedMachineIsStuck_transactions :
    ([.tick, .load [0x12], .keyDown 15, .keyUp 0] : List HostEvent).all (fun e =>
      (haltedWith e).fault == some ⟨.stackUnderflow, 0x1FE⟩ && (haltedWith e).inbox == [e] &&
      after (step (haltedWith e)) (fun t => t.pc == 0x200 && t.inbox.isEmpty && t.mem.isEmpty && t.fault.isSome)) = true := by
  decide
theorem witness_FaultLatchIsSticky :
    let s := { State.reset.raise .stackUnderflow with inbox := [.keyDown 3] }
    s.fault = some ⟨.stackUnderflow, 0x1FE⟩ ∧ step s = .next ({ s with inbox := [] }.keyDown 3) ∧ s.inbox.head? ≠ some .reset :=
  ⟨by decide, rfl, by decide⟩
theorem witness_RunStatesChangeAsListed_running :
    let s := ticking.memWriteList 0x200 [0xF3, 0x0A]
    s.runState = .running ∧ after (step s) (fun t => t.runState == .waiting) = true := by decide
theorem witness_RunStatesChangeAsListed_waiting :
    let s := { State.reset.setWait 3 with inbox := [.keyDown 7] }
    s.runState = .waiting ∧ after (step s) (fun t => t.runState == .running) = true := by decide
theorem witness_RunStatesChangeAsListed_halted :
    let s := { State.reset.raise .stackUnderflow with inbox := [.reset] }
    s.runState = .halted ∧ after (step s) (fun t => t.runState == .running) = true := by decide
theorem witness_TicksAreNotInterrupted :
    let s : State := { State.reset with slot := 10, inbox := [.keyDown 7] }
    s.fault = none ∧ s.slot ≠ 0 ∧ step s = .next s.tickEnd := ⟨rfl, by decide, rfl⟩
theorem witness_StepKeepsInvariant : ticking.Inv ∧ ∃ t, step ticking = .next t :=
  ⟨⟨by decide, by decide, by decide, by decide, by simp [ticking, State.reset], by decide, (fun _ => rfl)⟩, ⟨_, rfl⟩⟩
theorem witness_TickEndSteps :
    State.reset.wait = false ∧ (State.reset.setWait 0).wait = true ∧ 0 < (State.reset.setSt 2).tickEnd.st.toNat ∧
    (State.reset.setSt 1).tickEnd.st.toNat = 0 := by decide
theorem witness_TimersCountTicks : State.reset.wait = false ∧ (State.reset.setWait 0).wait = true := by decide
theorem witness_WaitingTickIsIdle :
    (State.reset.setWait 3).fault = none ∧ (State.reset.setWait 3).wait = true ∧ (State.reset.setWait 3).slot = 0 := by decide
theorem witness_TickIsItsSteps : ticking.slot = 0 ∧ ticking.inbox = .tick :: [] := by decide
theorem witness_ResetValues : 79 < 80 ∧ 80 ≤ 80 ∧ 80 ≤ 4095 ∧ 4095 < 4096 := by decide
theorem witness_NothingExecutesUntilTick :
    State.reset.betweenTicks = true ∧ State.reset.inbox = [] ∧ 0 < ticking.cfg.ipt ∧ ticking.inbox = .tick :: [] := by decide
theorem witness_NothingExecutesUntilTick_waiting :
    let s : State := { State.reset with inbox := [.load [0x12], .keyDown 3] }
    s.betweenTicks = true ∧ HostEvent.tick ∉ s.inbox ∧ HostEvent.reset ∉ s.inbox := by decide
theorem witness_LoadPlacesTheImage :
    State.reset.fault = none ∧ (List.replicate 3584 (0 : Byte)).length ≤ 3584 ∧ 3584 < (List.replicate 3585 (0 : Byte)).length :=
  ⟨rfl, by rw [List.length_replicate], by rw [List.length_replicate]; decide⟩
theorem witness_LoadPlacesTheImage_halted : (State.reset.raise .stackUnderflow).fault = some ⟨.stackUnderflow, 0x1FE⟩ := by
  decide
/-- The reset state with one transaction waiting. -/
def withEvent (e : HostEvent) : State := { State.reset with inbox := [e] }

theorem witness_TransactionsRunBetweenTicks_reset :
    let s := { (withEvent .reset).setDt 9 with pc := 0x300 }
    s.betweenTicks = true ∧ s.inbox = .reset :: [] ∧ after (step s) (fun t => t.dt == 0 && t.pc == 0x200) = true := by decide
theorem witness_TransactionsRunBetweenTicks_load :
    let s := withEvent (.load [0x12])
    s.betweenTicks = true ∧ s.inbox = .load [0x12] :: [] ∧ after (step s) (fun t => t.memRead 0x200 == 0x12) = true := by decide
theorem witness_TransactionsRunBetweenTicks_keyDown :
    let s := withEvent (.keyDown 15)
    s.betweenTicks = true ∧ s.inbox = .keyDown 15 :: [] ∧ after (step s) (fun t => t.keyPressed 15) = true := by decide
theorem witness_TransactionsRunBetweenTicks_keyUp :
    let s := (withEvent (.keyUp 15)).setKey 15 true
    s.betweenTicks = true ∧ s.inbox = .keyUp 15 :: [] ∧ after (step s) (fun t => !t.keyPressed 15) = true := by decide
theorem witness_TransactionsRunBetweenTicks_tick :
    ticking.betweenTicks = true ∧ ticking.inbox = .tick :: [] ∧ ticking.fault = none ∧ 0 < ticking.cfg.ipt := by decide
theorem witness_TransactionsRunBetweenTicks_tick_halted :
    (ticking.raise .stackUnderflow).betweenTicks = true ∧ (ticking.raise .stackUnderflow).inbox = .tick :: [] ∧
    (ticking.raise .stackUnderflow).fault ≠ none := by decide

/-- A `Reset`, a `Load` of one instruction, a `Tick`. -/
theorem witness_FirstTickFetchesAtLoadBase :
    let s : State := { State.reset with inbox := [.reset, .load [0x60, 0x2A], .tick] }
    s.betweenTicks = true ∧ 0 < s.cfg.ipt ∧ HostEvent.tick ∉ [HostEvent.load [0x60, 0x2A]] ∧
    HostEvent.reset ∉ [HostEvent.load [0x60, 0x2A]] ∧ s.inbox = .reset :: ([.load [0x60, 0x2A]] ++ .tick :: []) ∧
    decodeBytes 0x60 0x2A = .instr (.ldVxKk 0 0x2A) := by decide
/-- The same with nothing loaded: the word at 0x200 is undefined. -/
theorem witness_FirstTickFetchesAtLoadBase_undefined :
    let s : State := { State.reset with inbox := [.reset, .tick] }
    s.betweenTicks = true ∧ HostEvent.tick ∉ ([] : List HostEvent) ∧ s.inbox = .reset :: ([] ++ .tick :: []) ∧
    decodeBytes (State.reset.memRead 0x200) (State.reset.memRead 0x201) = .undefinedWord 0 := by decide

end Sys2Proof.Tests
end

section
/-! PROOFS. The invariant after a reset (spec/00_scope.md R5, spec/10_state.md R37, R38). -/

namespace Sys2Proof.Machine

/-- `Reset` puts any state whose parameters allow a slot a tick (R5) into one with the invariant: no cell listed, no
return address, no fault, PC at the load base, and the place in the tick at its start. -/
theorem resetAll_inv (s : State) (hslots : 1 ≤ s.cfg.ipt) : s.resetAll.Inv where
  memory := rfl
  slots  := hslots
  depth  := fun d _ => Nat.zero_le d
  pc     := show (0x200 : Word).toNat ≤ 0x10FE by decide
  stack  := fun _ h => absurd h List.not_mem_nil
  place  := Nat.zero_le s.cfg.ipt
  halted := fun _ => rfl

/-- The state after reset is itself the outcome of a `Reset`. -/
theorem resetAll_reset : State.reset.resetAll = State.reset := rfl

/-- The default parameters allow at least one slot a tick (R5). -/
theorem one_le_defaultConfig_ipt : 1 ≤ defaultConfig.ipt := by decide

/-- Settles O51: the reset state is a `Reset` of itself under the default parameters, which allow a slot a tick. -/
theorem resetHasInvariant : Obligations.ResetHasInvariant := by
  unfold Obligations.ResetHasInvariant
  rw [← resetAll_reset]
  exact resetAll_inv State.reset one_le_defaultConfig_ipt

end Sys2Proof.Machine
end

section
/-! PROOFS. What the effects of an instruction can be, said once: every instruction answers a next state, and that state
is one of a few named updates. The frames of R39 are read off from it. -/

namespace Sys2Proof.Machine

/-! ### Registers kept -/

theorem regsKept_refl (s : State) (l : List Reg) : regsKept s s l := fun _ _ => rfl

/-- A draw used up is no register (R141). -/
theorem regsKept_drawn (s : State) (l : List Reg) : regsKept s s.drawn l := fun _ _ => rfl

/-- A write to a listed register keeps the others. -/
theorem regsKept.writeV {s t : State} {l : List Reg} (h : regsKept s t l) {x : Reg} (hx : x ∈ l) (b : Byte) :
    regsKept s (t.writeV x b) l := by
  intro r hr
  rw [readV_writeV_ne t (fun e : r = x => hr (e ▸ hx))]
  exact h r hr

/-- Loading V0 to Vx keeps the registers above x (R155). -/
theorem regsKept_loadRegs (s : State) (a : Nat) (x : Reg) :
    regsKept s (s.loadRegs a (x.val + 1)) (Instr.ldVxMemI x).regsWritten := by
  intro r hr
  have hx : ¬ r ≤ x := by simpa [Instr.regsWritten] using hr
  rw [readV_loadRegs, if_neg fun h => hx (Fin.le_def.2 (Nat.lt_succ_iff.1 h))]

/-- Cxkk keeps every register but Vx (R141). -/
theorem regsKept_rndWith (r : Byte) (x : Reg) (kk : Byte) (s : State) :
    regsKept s (rndWith r x kk s) (Instr.rndVxKk x kk).regsWritten :=
  (regsKept_drawn s _).writeV List.mem_cons_self _

/-- Drawing keeps every register but VF (R166). -/
theorem regsKept_drawEffect (s : State) (x y : Reg) (n : Nat) :
    regsKept s (s.drawEffect x y n) (Instr.drwVxVyN x y n).regsWritten := by
  refine regsKept.writeV (fun r _ => ?_) (List.mem_singleton.2 rfl) _
  rw [toggleAll_eq]
  rfl

/-! ### Shared operations -/

/-- A skip is a change of PC alone: 2 further, or none (R114). -/
theorem skipIf_eq_setPc (s : State) (c : Bool) : s.skipIf c = s.setPc (if c then s.pc + 2 else s.pc) := by
  cases c <;> rfl

/-- The key query has no answer exactly above 15 (R180). -/
theorem keyQuery_eq_none {s : State} {b : Byte} (h : s.keyQuery b = none) : 15 < b.toNat := by
  unfold State.keyQuery at h
  split at h
  · cases h
  · omega

/-- What the checks of Dxyn raise is an error R201 gives to it. -/
theorem drawError_mayRaise {s : State} {x y : Reg} {n : Nat} {e : FatalError} (h : s.drawError x y n = some e) :
    (Instr.drwVxVyN x y n).mayRaise e := by
  unfold State.drawError at h
  split at h
  case h_1 a hspan =>
    obtain rfl := Option.some.inj h
    have ha := ((spanFault_eq_some ..).1 hspan).2
    show 4096 ≤ a
    omega
  case h_2 =>
    split at h
    case h_1 p hoff =>
      obtain rfl := Option.some.inj h
      simpa [Instr.mayRaise, firstOffGrid] using List.find?_some hoff
    case h_2 => cases h

/-- A target of Bnnn, not masked to 12 bits, is at most 0xFFF + 0xFF (R23, R113). -/
theorem addrOf_add_widen_le (nnn : BitVec 12) (b : Byte) : (addrOf nnn + widen b).toNat ≤ 0x10FE := by
  have := nnn.isLt
  have := b.isLt
  simp only [addrOf, widen, BitVec.toNat_add, BitVec.toNat_setWidth]
  omega

theorem addrOf_le (nnn : BitVec 12) : (addrOf nnn).toNat ≤ 0xFFF := by
  have := nnn.isLt
  simp only [addrOf, BitVec.toNat_setWidth]
  omega

/-! ### The effects of an instruction -/

/-- The states an instruction's effects may leave, PC already advanced in `s`: one constructor per kind of update, with
the guard it is made under. -/
inductive Effect (s : State) : Instr → State → Prop where
  /-- a fatal error that R201 gives to the instruction -/
  | raise {i : Instr} (e : FatalError) (he : i.mayRaise e) : Effect s i (s.raise e)
  /-- a change of general registers that the instruction may write -/
  | regs {i : Instr} (v : Vector Byte 16) (hv : regsKept s { s with v := v } i.regsWritten) : Effect s i { s with v := v }
  /-- Cxkk -/
  | random (x : Reg) (kk : Byte) : Effect s (.rndVxKk x kk) (rndWith s.randByte x kk s)
  /-- the skips -/
  | skip {i : Instr} (hi : i.writesPc = true) (c : Bool) : Effect s i (s.setPc (if c then s.pc + 2 else s.pc))
  /-- 1nnn and Bnnn, with the bound of R23 on the target -/
  | jump {i : Instr} (hi : i.writesPc = true) (w : Word) (hw : w.toNat ≤ 0x10FE) : Effect s i (s.setPc w)
  /-- 2nnn with room on the stack -/
  | call (nnn : BitVec 12) (hfull : s.stackFull = false) : Effect s (.callNnn nnn) ((s.push s.pc).setPc (addrOf nnn))
  /-- 00EE with a return address on the stack -/
  | ret (w : Word) (rest : List Word) (hstack : s.stack = w :: rest) : Effect s .ret { s with pc := w, stack := rest }
  /-- a change of I -/
  | index {i : Instr} (hi : i.writesI = true) (w : Word) : Effect s i (s.setI w)
  /-- Fx15 -/
  | delay (x : Reg) (b : Byte) : Effect s (.ldDtVx x) (s.setDt b)
  /-- Fx18 -/
  | sound (x : Reg) (b : Byte) : Effect s (.ldStVx x) (s.setSt b)
  /-- Fx0A -/
  | keyWait (x : Reg) : Effect s (.ldVxK x) (s.setWait x)
  /-- Fx33 within memory -/
  | bcd (x : Reg) (hspan : s.base + 3 ≤ 4096) : Effect s (.ldBVx x) (s.memWriteList s.base (bcdDigits (s.readV x)))
  /-- Fx55 within memory -/
  | store (x : Reg) (hspan : s.base + (x.val + 1) ≤ 4096) :
      Effect s (.ldMemIVx x) (s.memWriteList s.base (s.regsBelow (x.val + 1)))
  /-- 00E0 -/
  | clear : Effect s .cls s.dispClear
  /-- Dxyn within memory and the grid -/
  | draw (x y : Reg) (n : Nat) (hok : s.drawError x y n = none) : Effect s (.drwVxVyN x y n) (s.drawEffect x y n)

/-- A write of one register that the instruction may write is one of its effects. -/
theorem Effect.writeV {s : State} {i : Instr} {x : Reg} (hx : x ∈ i.regsWritten) (b : Byte) : Effect s i (s.writeV x b) :=
  .regs _ ((regsKept_refl s _).writeV hx b)

/-- So are two writes, one after the other: a flag and a result, in either order. -/
theorem Effect.writeV_writeV {s : State} {i : Instr} {x y : Reg} (hx : x ∈ i.regsWritten) (hy : y ∈ i.regsWritten)
    (b c : Byte) : Effect s i ((s.writeV x b).writeV y c) :=
  .regs _ (((regsKept_refl s _).writeV hx b).writeV hy c)

/-- So is a skip. -/
theorem Effect.skipIf {s : State} {i : Instr} (hi : i.writesPc = true) (c : Bool) : Effect s i (s.skipIf c) := by
  rw [skipIf_eq_setPc]
  exact .skip hi c

/-- The error that an access to the `len` bytes at I raises, for the instructions with a bounds check (R57, R201). -/
theorem Effect.raise_of_spanFault {s : State} {i : Instr} {len a : Nat} (hspan : spanFault s.base len = some a)
    (hi : ∀ b, 4096 ≤ b → i.mayRaise (.memoryOutOfBounds b)) : Effect s i (s.raise (.memoryOutOfBounds a)) := by
  have ha := ((spanFault_eq_some ..).1 hspan).2
  exact .raise _ (hi a (by omega))

/-- An access to one byte or more that passes the bounds check lies in memory. -/
theorem base_add_le_of_spanFault {s : State} {len : Nat} (hspan : spanFault s.base (len + 1) = none) :
    s.base + (len + 1) ≤ 4096 := by
  have := (spanFault_eq_none ..).1 hspan
  omega

theorem exec_ret_effect (s : State) : ∃ t, exec .ret s = .next t ∧ Effect s .ret t := by
  rcases hs : s.stack with _ | ⟨w, rest⟩
  · exact ⟨_, by simp only [exec, execRet, hs], .raise .stackUnderflow trivial⟩
  · exact ⟨_, by simp only [exec, execRet, hs], .ret w rest hs⟩

theorem exec_callNnn_effect (nnn : BitVec 12) (s : State) :
    ∃ t, exec (.callNnn nnn) s = .next t ∧ Effect s (.callNnn nnn) t := by
  rcases hs : s.stackFull with _ | _
  · exact ⟨_, by simp only [exec, execCallNnn, hs, Bool.false_eq_true, if_false], .call nnn hs⟩
  · exact ⟨_, by simp only [exec, execCallNnn, hs, if_true], .raise .stackOverflow trivial⟩

theorem exec_drwVxVyN_effect (x y : Reg) (n : Nat) (s : State) :
    ∃ t, exec (.drwVxVyN x y n) s = .next t ∧ Effect s (.drwVxVyN x y n) t := by
  rcases hs : s.drawError x y n with _ | e
  · exact ⟨_, by simp only [exec, execDrwVxVyN, hs], .draw x y n hs⟩
  · exact ⟨_, by simp only [exec, execDrwVxVyN, hs], .raise e (drawError_mayRaise hs)⟩

theorem exec_skpVx_effect (x : Reg) (s : State) : ∃ t, exec (.skpVx x) s = .next t ∧ Effect s (.skpVx x) t := by
  rcases hs : s.keyQuery (s.readV x) with _ | pressed
  · exact ⟨_, by simp only [exec, execSkpVx, hs], .raise (.keyIndexOutOfRange _) (keyQuery_eq_none hs)⟩
  · exact ⟨_, by simp only [exec, execSkpVx, hs], .skipIf rfl pressed⟩

theorem exec_sknpVx_effect (x : Reg) (s : State) : ∃ t, exec (.sknpVx x) s = .next t ∧ Effect s (.sknpVx x) t := by
  rcases hs : s.keyQuery (s.readV x) with _ | pressed
  · exact ⟨_, by simp only [exec, execSknpVx, hs], .raise (.keyIndexOutOfRange _) (keyQuery_eq_none hs)⟩
  · exact ⟨_, by simp only [exec, execSknpVx, hs], .skipIf rfl !pressed⟩

theorem exec_ldBVx_effect (x : Reg) (s : State) : ∃ t, exec (.ldBVx x) s = .next t ∧ Effect s (.ldBVx x) t := by
  rcases hs : spanFault s.base 3 with _ | a
  · exact ⟨_, by simp only [exec, execLdBVx, hs], .bcd x (base_add_le_of_spanFault hs)⟩
  · exact ⟨_, by simp only [exec, execLdBVx, hs], .raise_of_spanFault hs fun _ h => h⟩

theorem exec_ldMemIVx_effect (x : Reg) (s : State) :
    ∃ t, exec (.ldMemIVx x) s = .next t ∧ Effect s (.ldMemIVx x) t := by
  rcases hs : spanFault s.base (x.val + 1) with _ | a
  · exact ⟨_, by simp only [exec, execLdMemIVx, hs], .store x (base_add_le_of_spanFault hs)⟩
  · exact ⟨_, by simp only [exec, execLdMemIVx, hs], .raise_of_spanFault hs fun _ h => h⟩

theorem exec_ldVxMemI_effect (x : Reg) (s : State) :
    ∃ t, exec (.ldVxMemI x) s = .next t ∧ Effect s (.ldVxMemI x) t := by
  rcases hs : spanFault s.base (x.val + 1) with _ | a
  · refine ⟨s.loadRegs s.base (x.val + 1), by simp only [exec, execLdVxMemI, hs], ?_⟩
    have hkept := regsKept_loadRegs s s.base x
    rw [loadRegs_eq] at hkept ⊢
    exact .regs _ hkept
  · exact ⟨_, by simp only [exec, execLdVxMemI, hs], .raise_of_spanFault hs fun _ h => h⟩

/-- Every instruction answers a next state, which is one of the effects. -/
theorem exec_effect (i : Instr) (s : State) : ∃ t, exec i s = .next t ∧ Effect s i t := by
  cases i with
  | cls => exact ⟨_, rfl, .clear⟩
  | ret => exact exec_ret_effect s
  | jpNnn nnn => exact ⟨_, rfl, .jump rfl _ ((addrOf_le nnn).trans (by decide))⟩
  | callNnn nnn => exact exec_callNnn_effect nnn s
  | seVxKk x kk | sneVxKk x kk => exact ⟨_, rfl, .skipIf rfl _⟩
  | seVxVy x y | sneVxVy x y => exact ⟨_, rfl, .skipIf rfl _⟩
  | ldVxKk x kk | addVxKk x kk => exact ⟨_, rfl, .writeV List.mem_cons_self _⟩
  | ldVxVy x y | orVxVy x y | andVxVy x y | xorVxVy x y => exact ⟨_, rfl, .writeV List.mem_cons_self _⟩
  | addVxVy x y => exact ⟨_, rfl, .writeV_writeV List.mem_cons_self (List.mem_cons_of_mem _ List.mem_cons_self) _ _⟩
  | subVxVy x y | shrVx x y | subnVxVy x y | shlVx x y =>
    exact ⟨_, rfl, .writeV_writeV (List.mem_cons_of_mem _ List.mem_cons_self) List.mem_cons_self _ _⟩
  | ldINnn nnn => exact ⟨_, rfl, .index rfl _⟩
  | jpV0Nnn nnn => exact ⟨_, rfl, .jump rfl _ (addrOf_add_widen_le nnn _)⟩
  | rndVxKk x kk => exact ⟨_, rfl, .random x kk⟩
  | drwVxVyN x y n => exact exec_drwVxVyN_effect x y n s
  | skpVx x => exact exec_skpVx_effect x s
  | sknpVx x => exact exec_sknpVx_effect x s
  | ldVxDt x => exact ⟨_, rfl, .writeV List.mem_cons_self _⟩
  | ldVxK x => exact ⟨_, rfl, .keyWait x⟩
  | ldDtVx x => exact ⟨_, rfl, .delay x _⟩
  | ldStVx x => exact ⟨_, rfl, .sound x _⟩
  | addIVx x | ldFVx x => exact ⟨_, rfl, .index rfl _⟩
  | ldBVx x => exact exec_ldBVx_effect x s
  | ldMemIVx x => exact exec_ldMemIVx_effect x s
  | ldVxMemI x => exact exec_ldVxMemI_effect x s

/-- What an instruction answers is one of its effects. -/
theorem effect_of_exec {i : Instr} {s t : State} (h : exec i s = .next t) : Effect s i t := by
  obtain ⟨u, hu, heff⟩ := exec_effect i s
  rw [hu] at h
  cases h
  exact heff

/-! ### Frames -/

/-- Settles O38: each kind of effect is an update of the fields that R39 lets its instruction write. -/
theorem instructionFrames : Obligations.InstructionFrames := by
  unfold Obligations.InstructionFrames
  intro i s t h
  cases effect_of_exec h with
  | raise e he => simp [regsKept, State.readV]
  | regs v hv => simpa using hv
  | random x kk =>
    have hkept := regsKept_rndWith s.randByte x kk s
    simpa [rndWith] using hkept
  | skip hi c => simp [regsKept, State.readV, hi]
  | jump hi w hw => simp [regsKept, State.readV, hi]
  | call nnn hfull => simp [regsKept, State.readV, Instr.writesPc, Instr.writesStack]
  | ret w rest hstack => simp [regsKept, State.readV, Instr.writesPc, Instr.writesStack]
  | index hi w => simp [regsKept, State.readV, hi]
  | delay x b => simp [regsKept, State.readV]
  | sound x b => simp [regsKept, State.readV]
  | keyWait x => simp [regsKept, State.readV]
  | bcd x hspan => rw [memWriteList_eq]; simp [regsKept, State.readV]
  | store x hspan => rw [memWriteList_eq]; simp [regsKept, State.readV]
  | clear => simp [regsKept, State.readV, Instr.writesDisplay]
  | draw x y n hok =>
    have hkept := regsKept_drawEffect s x y n
    rw [drawEffect_eq] at hkept ⊢
    simpa [Instr.writesDisplay] using hkept

/-- An effect that stores nothing leaves memory as it is. -/
theorem Effect.mem_eq {s t : State} {i : Instr} (h : Effect s i t) (hi : i.writesMemory = false) : t.mem = s.mem := by
  cases h with
  | bcd x hspan => cases hi
  | store x hspan => cases hi
  | draw x y n hok => rw [drawEffect_eq]
  | _ => rfl

/-- What a byte reads as depends on the cells and on the font alone. -/
theorem memRead_congr {s t : State} (hmem : t.mem = s.mem) (hcfg : t.cfg = s.cfg) (a : Nat) : t.memRead a = s.memRead a := by
  simp only [State.memRead, hmem, hcfg]

/-- A list of byte writes keeps the bytes outside it. -/
theorem bytesKept_memWriteList (s : State) (a : Nat) (bs : List Byte) : bytesKept s (s.memWriteList a bs) a bs.length := by
  intro b hb
  rw [memRead_memWriteList, dif_neg hb]

/-- Settles O39: what Fx33 and Fx55 change is a list of bytes at I, and no other effect changes memory. -/
theorem instructionsKeepOtherBytes : Obligations.InstructionsKeepOtherBytes := by
  unfold Obligations.InstructionsKeepOtherBytes
  refine ⟨fun i s t hi h a => ?_, fun x s t h => ?_, fun x s t h => ?_⟩
  · obtain ⟨-, -, -, -, -, -, -, -, -, -, -, hcfg, -⟩ := instructionFrames i s t h
    exact memRead_congr ((effect_of_exec h).mem_eq hi) hcfg a
  · cases effect_of_exec h with
    | bcd => exact bytesKept_memWriteList s s.base _
    | _ => exact fun _ _ => rfl
  · cases effect_of_exec h with
    | store =>
      have hkept := bytesKept_memWriteList s s.base (s.regsBelow (x.val + 1))
      rwa [regsBelow_length s (x.val + 1) x.isLt] at hkept
    | _ => exact fun _ _ => rfl

end Sys2Proof.Machine
end

section
/-! PROOFS. What a step of the machine can be, said once: a slot, the end of a tick, a host transaction, or nothing. -/

namespace Sys2Proof.Machine

/-! ### The fetch -/

/-- The fetch passes its bounds check when both bytes lie in memory (R92). -/
theorem fetchFault_of_le {s : State} (h : s.pc.toNat ≤ 0xFFE) : s.fetchFault = none :=
  (spanFault_eq_none ..).2 (.inr (by omega))

/-- It fails with the lower of the two addresses that lies outside (R92, R206). -/
theorem fetchFault_of_lt {s : State} (h : 0xFFE < s.pc.toNat) : s.fetchFault = some (max s.pc.toNat 4096) :=
  (spanFault_eq_some ..).2 ⟨⟨by omega, by omega⟩, rfl⟩

/-! ### The slot -/

/-- A slot that fetches out of bounds raises with PC where it was (R92, R200). -/
theorem slotStep_of_lt {s : State} (hw : s.wait = false) (h : 0xFFE < s.pc.toNat) :
    slotStep s = .next (s.raiseAt (.memoryOutOfBounds (max s.pc.toNat 4096)) s.pc) := by
  simp only [slotStep, hw, fetchFault_of_lt h, Bool.false_eq_true, if_false]

/-- A slot that fetches in bounds executes the word at PC on the state after the fetch (R91). -/
theorem slotStep_of_le {s : State} (hw : s.wait = false) (h : s.pc.toNat ≤ 0xFFE) :
    slotStep s = executeWord s.fetchWord s.fetched := by
  simp only [slotStep, hw, fetchFault_of_le h, Bool.false_eq_true, if_false]

/-- The states a slot may leave. -/
inductive SlotEffect (s : State) : State → Prop where
  /-- a slot the pause latch leaves idle -/
  | idle (hw : s.wait = true) : SlotEffect s s.idleSlot
  /-- a fetch with a byte outside memory -/
  | outOfBounds (hw : s.wait = false) (hpc : 0xFFE < s.pc.toNat) :
      SlotEffect s (s.raiseAt (.memoryOutOfBounds (max s.pc.toNat 4096)) s.pc)
  /-- a fetch of a word that no row selects -/
  | undefinedWord (w : Word) (hw : s.wait = false) (hpc : s.pc.toNat ≤ 0xFFE)
      (hd : decode s.fetchWord = .undefinedWord w) : SlotEffect s (s.fetched.raise (.decodeError w))
  /-- an instruction -/
  | instr (i : Instr) (hw : s.wait = false) (hpc : s.pc.toNat ≤ 0xFFE) (hd : decode s.fetchWord = .instr i) {t : State}
      (heff : Effect s.fetched i t) : SlotEffect s t

/-- A slot answers a next state, which is one of its effects. -/
theorem slotStep_effect (s : State) : ∃ t, slotStep s = .next t ∧ SlotEffect s t := by
  rcases hw : s.wait with _ | _
  · rcases Nat.lt_or_ge 0xFFE s.pc.toNat with hpc | hpc
    · exact ⟨_, slotStep_of_lt hw hpc, .outOfBounds hw hpc⟩
    · rw [slotStep_of_le hw hpc]
      rcases hd : decode s.fetchWord with i | w
      · obtain ⟨t, ht, heff⟩ := exec_effect i s.fetched
        exact ⟨t, by simp only [executeWord, hd, ht], .instr i hw hpc hd heff⟩
      · exact ⟨_, by simp only [executeWord, hd], .undefinedWord w hw hpc hd⟩
  · exact ⟨_, by simp only [slotStep, hw, if_true], .idle hw⟩

/-! ### The step -/

theorem betweenTicks_of_slot {s : State} (h : s.slot = 0) : s.betweenTicks = true := by simp [State.betweenTicks, h]

/-- A tick is in progress when a slot of it is used and no fault is latched (R101). -/
theorem betweenTicks_eq_false {s : State} : s.betweenTicks = false ↔ s.slot ≠ 0 ∧ s.fault = none := by
  simp [State.betweenTicks]

/-- With no fault latched and a slot left, a step of the tick is a slot (R90). -/
theorem tickStep_of_slot {s : State} (hf : s.fault = none) (hs : s.slot < s.cfg.ipt) : tickStep s = slotStep s := by
  simp [tickStep, hf, hs]

/-- With no fault latched, and a `Tick` first in the list where none is in progress, a step is a step of the tick (R101). -/
theorem step_of_inTick {s : State} (hf : s.fault = none) (htick : s.slot = 0 → s.inbox.head? = some .tick) :
    step s = tickStep s.inTick := by
  by_cases h0 : s.slot = 0
  · obtain ⟨rest, hi⟩ := List.head?_eq_some_iff.1 (htick h0)
    have hin : s.inTick = { s with inbox := rest } := by simp only [State.inTick, h0, if_true, hi, List.tail_cons]
    rw [step_of_tick s (betweenTicks_of_slot h0) hi, hin]
  · have hin : s.inTick = s := by simp only [State.inTick, h0, if_false]
    rw [step_of_inside s (betweenTicks_eq_false.2 ⟨h0, hf⟩), hin]

/-- The step of a state that fetches is a slot, in the tick that is in progress or that begins (R91, R231). -/
theorem step_of_fetches {s : State} (h : s.fetches) : step s = slotStep s.inTick := by
  obtain ⟨hf, -, hs, htick⟩ := h
  rw [step_of_inTick hf htick, tickStep_of_slot (s := s.inTick) hf hs]

/-- The states a step may leave. -/
inductive StepEffect (s : State) : State → Prop where
  /-- between ticks no transaction waits (R231) -/
  | quiet (hb : s.betweenTicks = true) (hi : s.inbox = []) : StepEffect s s
  /-- between ticks, a transaction other than `Tick` -/
  | transaction (e : HostEvent) (rest : List HostEvent) (hb : s.betweenTicks = true) (hi : s.inbox = e :: rest)
      (he : e ≠ .tick) : StepEffect s ({ s with inbox := rest }.transact e)
  /-- a `Tick` that finds a fault latched (R98) -/
  | halted (rest : List HostEvent) (hf : s.fault ≠ none) (hi : s.inbox = .tick :: rest) :
      StepEffect s { s with inbox := rest }
  /-- a slot of a tick -/
  | slot (hf : s.fault = none) (htick : s.slot = 0 → s.inbox.head? = some .tick) (hs : s.slot < s.cfg.ipt) {t : State}
      (heff : SlotEffect s.inTick t) : StepEffect s t
  /-- the end of a tick -/
  | tickEnd (hf : s.fault = none) (htick : s.slot = 0 → s.inbox.head? = some .tick) (hs : s.cfg.ipt ≤ s.slot) :
      StepEffect s s.inTick.tickEnd

/-- In a tick, a step answers a next state, which is one of the effects of a step. -/
theorem step_effect_of_inTick {s : State} (hf : s.fault = none) (htick : s.slot = 0 → s.inbox.head? = some .tick) :
    ∃ t, step s = .next t ∧ StepEffect s t := by
  rw [step_of_inTick hf htick]
  rcases tickStep_cases s.inTick with ⟨hne, -⟩ | ⟨-, hs, h⟩ | ⟨-, hs, h⟩
  · exact absurd hf hne
  · obtain ⟨t, ht, heff⟩ := slotStep_effect s.inTick
    exact ⟨t, h.trans ht, .slot hf htick hs heff⟩
  · exact ⟨_, h, .tickEnd hf htick hs⟩

/-- A step answers a next state, which is one of its effects. -/
theorem step_effect (s : State) : ∃ t, step s = .next t ∧ StepEffect s t := by
  rcases hb : s.betweenTicks with _ | _
  · obtain ⟨hs, hf⟩ := betweenTicks_eq_false.1 hb
    exact step_effect_of_inTick hf fun h0 => absurd h0 hs
  rcases hi : s.inbox with _ | ⟨e, rest⟩
  · exact ⟨s, step_of_inbox_nil s hb hi, .quiet hb hi⟩
  by_cases he : e = .tick
  · subst he
    by_cases hf : s.fault = none
    · exact step_effect_of_inTick hf fun _ => by rw [hi]; rfl
    · exact ⟨_, (step_of_tick s hb hi).trans (tickStep_halted _ hf), .halted rest hf hi⟩
  · exact ⟨_, step_of_transaction s hb hi he, .transaction e rest hb hi he⟩

/-- What a step answers is one of its effects. -/
theorem effect_of_step {s t : State} (h : step s = .next t) : StepEffect s t := by
  obtain ⟨u, hu, heff⟩ := step_effect s
  rw [hu] at h
  cases h
  exact heff

/-- Settles O43: a state that fetches runs a slot, and the slot's bounds check fails. -/
theorem fetchOutOfBoundsKeepsPc : Obligations.FetchOutOfBoundsKeepsPc := by
  unfold Obligations.FetchOutOfBoundsKeepsPc
  intro s h hpc
  have ⟨_, hw, _, _⟩ := h
  rw [step_of_fetches h, slotStep_of_lt (s := s.inTick) hw hpc]
  rfl

end Sys2Proof.Machine
end

section
/-! PROOFS. The invariant through every step (spec/10_state.md R23, R25, R38, R110). -/

namespace Sys2Proof.Machine

/-! ### Single updates -/

/-- A raise keeps the invariant: it ends the tick (R100). -/
theorem State.Inv.raiseAt {s : State} (h : s.Inv) (e : FatalError) (a : Word) : (s.raiseAt e a).Inv :=
  { h with place := Nat.zero_le _, halted := fun _ => rfl }

/-- A change of PC within the bound of R23 keeps it. -/
theorem State.Inv.setPc {s : State} (h : s.Inv) {w : Word} (hw : w.toNat ≤ 0x10FE) : (s.setPc w).Inv :=
  { h with pc := hw }

/-- A push of a return address of R110 on a stack that is not full keeps it (R25). -/
theorem State.Inv.push {s : State} (h : s.Inv) (hfull : s.stackFull = false) {w : Word} (hw : w.toNat ≤ 0x1000) :
    (s.push w).Inv :=
  { h with
    depth := fun d hd => by
      have hle := h.depth d hd
      have hne : s.stack.length ≠ d := by simpa [State.stackFull, show s.cfg.stackDepth = some d from hd] using hfull
      simp only [push_stack, List.length_cons]
      omega
    stack := List.forall_mem_cons.2 ⟨hw, h.stack⟩ }

/-- A return keeps it: a return address is a PC within R23's bound. -/
theorem State.Inv.ret {s : State} (h : s.Inv) {w : Word} {rest : List Word} (hs : s.stack = w :: rest) :
    ({ s with pc := w, stack := rest } : State).Inv :=
  { h with
    depth := fun d hd => by
      have hle := h.depth d hd
      simp only [hs, List.length_cons] at hle
      exact (Nat.le_succ _).trans hle
    pc := by
      have hw := h.stack w (by rw [hs]; exact List.mem_cons_self)
      exact hw.trans (by decide)
    stack := fun x hx => h.stack x (by rw [hs]; exact List.mem_cons_of_mem _ hx) }

/-- Byte writes within memory keep it. -/
theorem State.Inv.memWriteList {s : State} (h : s.Inv) {a : Nat} {bs : List Byte} (hb : a + bs.length ≤ 4096) :
    (s.memWriteList a bs).Inv := by
  have hwf := memWriteList_wf s a bs h.memory hb
  rw [memWriteList_eq]
  exact { h with memory := hwf }

/-! ### The slot -/

/-- PC after a fetch within memory is the address of the next instruction, at most 0x1000. -/
theorem fetched_pc_le {s : State} (hpc : s.pc.toNat ≤ 0xFFE) : s.fetched.pc.toNat ≤ 0x1000 := by
  rw [fetched_pc]
  bv_omega

/-- A fetch within memory, with a slot left in the tick, keeps the invariant. -/
theorem State.Inv.fetched {s : State} (h : s.Inv) (hf : s.fault = none) (hs : s.slot < s.cfg.ipt)
    (hpc : s.pc.toNat ≤ 0xFFE) : s.fetched.Inv :=
  { h with
    pc := (fetched_pc_le hpc).trans (by decide)
    place := hs
    halted := fun hne => absurd hf hne }

/-- Every effect of an instruction keeps the invariant, where PC is the address of the next instruction. -/
theorem Effect.inv {s t : State} {i : Instr} (heff : Effect s i t) (h : s.Inv) (hpc : s.pc.toNat ≤ 0x1000) : t.Inv := by
  cases heff with
  | raise e he => exact h.raiseAt e _
  | regs | random | index | delay | sound | keyWait | clear => exact { h with }
  | skip hi c =>
    refine h.setPc ?_
    split
    · bv_omega
    · exact h.pc
  | jump hi w hw => exact h.setPc hw
  | call nnn hfull => exact (h.push hfull hpc).setPc ((addrOf_le nnn).trans (by decide))
  | ret w rest hstack => exact h.ret hstack
  | bcd x hspan => exact h.memWriteList hspan
  | store x hspan => exact h.memWriteList (by rwa [regsBelow_length s (x.val + 1) x.isLt])
  | draw x y n hok =>
    rw [drawEffect_eq]
    exact { h with }

/-- A slot of a tick keeps the invariant. -/
theorem SlotEffect.inv {s t : State} (heff : SlotEffect s t) (h : s.Inv) (hf : s.fault = none)
    (hs : s.slot < s.cfg.ipt) : t.Inv := by
  cases heff with
  | idle hw => exact { h with place := hs, halted := fun hne => absurd hf hne }
  | outOfBounds hw hpc => exact h.raiseAt _ _
  | undefinedWord w hw hpc hd => exact (h.fetched hf hs hpc).raiseAt _ _
  | instr i hw hpc hd heff => exact heff.inv (h.fetched hf hs hpc) (fetched_pc_le hpc)

/-! ### Transactions and the end of a tick -/

/-- A `Load` writes nothing, or an image that fits at 0x200 (R63). -/
theorem load_cases (s : State) (bytes : List Byte) :
    (s.load bytes).1 = s ∨ bytes.length ≤ 3584 ∧ (s.load bytes).1 = s.memWriteList Config.loadBase bytes := by
  unfold State.load
  split
  · exact .inl rfl
  · split
    · exact .inl rfl
    · exact .inr ⟨Nat.le_of_not_lt ‹_›, rfl⟩

/-- A transaction keeps the invariant. -/
theorem State.Inv.transact {s : State} (h : s.Inv) (e : HostEvent) : (s.transact e).Inv := by
  cases e with
  | reset => exact resetAll_inv s h.slots
  | load bytes =>
    simp only [State.transact]
    rcases load_cases s bytes with hl | ⟨hlen, hl⟩
    · rwa [hl]
    · rw [hl]
      exact h.memWriteList (by simp only [Config.loadBase]; omega)
  | tick => exact h
  | keyDown k =>
    simp only [State.transact]
    rw [keyDown_eq]
    exact { h with }
  | keyUp k => exact { h with }

/-- The end of a tick keeps the invariant. -/
theorem State.Inv.tickEnd {s : State} (h : s.Inv) : s.tickEnd.Inv := by
  rw [tickEnd_eq]
  exact { h with place := Nat.zero_le _, halted := fun _ => rfl }

/-- Taking a transaction off the list keeps the invariant. -/
theorem State.Inv.setInbox {s : State} (h : s.Inv) (l : List HostEvent) : ({ s with inbox := l } : State).Inv := { h with }

/-- Settles O50: each effect of a step keeps the invariant. -/
theorem stepKeepsInvariant : Obligations.StepKeepsInvariant := by
  unfold Obligations.StepKeepsInvariant
  intro s t h hstep
  cases effect_of_step hstep with
  | quiet => exact h
  | transaction e rest => exact (h.setInbox rest).transact e
  | halted rest => exact h.setInbox rest
  | slot hf htick hs heff => exact heff.inv (h.setInbox _) hf hs
  | tickEnd => exact (h.setInbox _).tickEnd

end Sys2Proof.Machine
end

section
/-! PROOFS. The fault latch and the run states through every step (spec/10_state.md R27, R28; spec/60_exceptions.md R217). -/

namespace Sys2Proof.Machine

/-! ### Transactions -/

/-- `t` is `s` but for what a transaction other than `Reset` may change: a load's memory, the key levels, a key's delivery. -/
def onlyHostFields (s t : State) : Prop := t = { s with v := t.v, wait := t.wait, mem := t.mem, keys := t.keys }

theorem onlyHostFields.trans {s t u : State} (h : onlyHostFields s t) (h' : onlyHostFields t u) : onlyHostFields s u := by
  unfold onlyHostFields at h h'
  rw [h] at h'
  exact h'

/-- A transaction other than `Reset` changes no other field. -/
theorem onlyHostFields_transact (s : State) {e : HostEvent} (he : e ≠ .reset) : onlyHostFields s (s.transact e) := by
  unfold onlyHostFields
  cases e with
  | reset => exact absurd rfl he
  | load bytes => simp only [State.transact]; rw [load_eq]
  | keyDown k => simp only [State.transact]; rw [keyDown_eq]
  | _ => rfl

theorem onlyHostFields.fault {s t : State} (h : onlyHostFields s t) : t.fault = s.fault := by rw [h]

theorem onlyHostFields.waitReg {s t : State} (h : onlyHostFields s t) : t.waitReg = s.waitReg := by rw [h]

/-- Only `Reset` and `KeyDown` write the pause latch (R27). -/
theorem transact_wait (s : State) {e : HostEvent} (he : e ≠ .reset) (hk : ∀ k, e ≠ .keyDown k) :
    (s.transact e).wait = s.wait := by
  cases e with
  | reset => exact absurd rfl he
  | keyDown k => exact absurd rfl (hk k)
  | load bytes => simp only [State.transact]; rw [load_eq]
  | _ => rfl

/-- `KeyDown` clears the latch where no fault is latched, and otherwise leaves it (R183). -/
theorem keyDown_wait (s : State) (k : Key) : (s.keyDown k).wait = (s.fault.isSome && s.wait) := by
  unfold State.keyDown State.deliverKey
  cases hf : s.fault <;> cases hw : s.wait <;> simp [State.setKey, hf, hw]

/-- Settles O46: of the effects of a step on a halted machine, `Reset` alone writes the latch. -/
theorem faultLatchIsSticky : Obligations.FaultLatchIsSticky := by
  unfold Obligations.FaultLatchIsSticky
  intro s t r hr hstep hreset
  have hf : s.fault ≠ none := by rw [hr]; exact Option.some_ne_none r
  cases effect_of_step hstep with
  | quiet => exact hr
  | transaction e rest hb hi he =>
    have hne : e ≠ .reset := fun h => hreset (by rw [hi, h]; rfl)
    exact (onlyHostFields_transact _ hne).fault.trans hr
  | halted => exact hr
  | slot hnone => exact absurd hnone hf
  | tickEnd hnone => exact absurd hnone hf

/-! ### Run states -/

theorem runState_eq_waiting (s : State) : s.runState = .waiting ↔ s.fault = none ∧ s.wait = true := by
  cases hf : s.fault <;> cases hw : s.wait <;> simp [State.runState, hf, hw]

theorem runState_eq_running (s : State) : s.runState = .running ↔ s.fault = none ∧ s.wait = false := by
  cases hf : s.fault <;> cases hw : s.wait <;> simp [State.runState, hf, hw]

/-- The run state depends on the two latches alone. -/
theorem runState_congr {s t : State} (hf : t.fault = s.fault) (hw : t.wait = s.wait) : t.runState = s.runState := by
  simp only [State.runState, hf, hw]

/-- The changes of run state that R217 lists, with WAITREG's part in them. -/
inductive RunChange (s t : State) : Prop where
  /-- none, and WAITREG stays -/
  | none (hrun : t.runState = s.runState) (hreg : t.waitReg = s.waitReg)
  /-- running to waiting by Fx0A -/
  | wait (x : Reg) (hs : s.runState = .running) (hd : decode s.fetchWord = .instr (.ldVxK x)) (hreg : t.waitReg = x)
  /-- running to halted by a raise -/
  | halt (hs : s.runState = .running) (ht : t.runState = .halted)
  /-- waiting to running by `KeyDown` -/
  | deliver (k : Key) (hi : s.inbox.head? = some (.keyDown k)) (hs : s.runState = .waiting) (ht : t.runState = .running)
  /-- anything to running by `Reset` -/
  | reset (hi : s.inbox.head? = some .reset) (ht : t.runState = .running)

/-- An instruction changes the run state by Fx0A or by a raise. -/
theorem Effect.runState {s t : State} {i : Instr} (heff : Effect s i t) :
    (t.runState = s.runState ∧ t.waitReg = s.waitReg) ∨ t.runState = .halted ∨ ∃ x, i = .ldVxK x ∧ t.waitReg = x := by
  cases heff with
  | raise e => exact .inr (.inl rfl)
  | keyWait x => exact .inr (.inr ⟨x, rfl, rfl⟩)
  | bcd x | store x => rw [memWriteList_eq]; exact .inl ⟨rfl, rfl⟩
  | draw x y n => rw [drawEffect_eq]; exact .inl ⟨rfl, rfl⟩
  | _ => exact .inl ⟨rfl, rfl⟩

/-- A slot with no fault latched changes the run state by a raise or by Fx0A. -/
theorem SlotEffect.runState {s t : State} (heff : SlotEffect s t) (hf : s.fault = none) :
    (t.runState = s.runState ∧ t.waitReg = s.waitReg) ∨ (s.runState = .running ∧ t.runState = .halted) ∨
    ∃ x, s.runState = .running ∧ decode s.fetchWord = .instr (.ldVxK x) ∧ t.waitReg = x := by
  cases heff with
  | idle => exact .inl ⟨rfl, rfl⟩
  | outOfBounds hw => exact .inr (.inl ⟨(runState_eq_running s).2 ⟨hf, hw⟩, rfl⟩)
  | undefinedWord w hw => exact .inr (.inl ⟨(runState_eq_running s).2 ⟨hf, hw⟩, rfl⟩)
  | instr i hw hpc hd heff =>
    have hs := (runState_eq_running s).2 ⟨hf, hw⟩
    obtain hsame | ht | ⟨x, rfl, hreg⟩ := heff.runState
    · exact .inl hsame
    · exact .inr (.inl ⟨hs, ht⟩)
    · exact .inr (.inr ⟨x, hs, hd, hreg⟩)

/-- A transaction changes the run state by `Reset`, or by the `KeyDown` that ends a wait. -/
theorem transact_runState (s : State) (e : HostEvent) :
    ((s.transact e).runState = s.runState ∧ (s.transact e).waitReg = s.waitReg) ∨
    (∃ k, e = .keyDown k ∧ s.runState = .waiting ∧ (s.transact e).runState = .running) ∨
    (e = .reset ∧ (s.transact e).runState = .running) := by
  by_cases he : e = .reset
  · subst he
    exact .inr (.inr ⟨rfl, rfl⟩)
  have hfields := onlyHostFields_transact s he
  by_cases hwait : (s.transact e).wait = s.wait
  · exact .inl ⟨runState_congr hfields.fault hwait, hfields.waitReg⟩
  obtain ⟨k, rfl⟩ : ∃ k, e = .keyDown k := by
    by_contra hk
    exact hwait (transact_wait s he fun k h => hk ⟨k, h⟩)
  have hdown : (s.transact (.keyDown k)).wait = (s.fault.isSome && s.wait) := keyDown_wait s k
  obtain ⟨hf, hw⟩ : s.fault = none ∧ s.wait = true := by
    rw [hdown] at hwait
    simpa [and_comm] using hwait
  refine .inr (.inl ⟨k, rfl, (runState_eq_waiting s).2 ⟨hf, hw⟩, (runState_eq_running _).2 ⟨hfields.fault.trans hf, ?_⟩⟩)
  simp only [hdown, hf, Option.isSome_none, Bool.false_and]

/-- A step changes the run state only as R217 lists. -/
theorem StepEffect.runChange {s t : State} (heff : StepEffect s t) : RunChange s t := by
  cases heff with
  | quiet => exact .none rfl rfl
  | transaction e rest hb hi =>
    have hhead : s.inbox.head? = some e := by rw [hi]; rfl
    obtain ⟨hrun, hreg⟩ | ⟨k, rfl, hs, ht⟩ | ⟨rfl, ht⟩ := transact_runState { s with inbox := rest } e
    · exact .none hrun hreg
    · exact .deliver k hhead hs ht
    · exact .reset hhead ht
  | halted => exact .none rfl rfl
  | slot hf htick hs heff =>
    obtain ⟨hrun, hreg⟩ | ⟨hs, ht⟩ | ⟨x, hs, hd, hreg⟩ := heff.runState hf
    · exact .none hrun hreg
    · exact .halt hs ht
    · exact .wait x hs hd hreg
  | tickEnd => rw [tickEnd_eq]; exact .none rfl rfl

/-- Settles O47: read off from the changes that a step can make. -/
theorem runStatesChangeAsListed : Obligations.RunStatesChangeAsListed := by
  unfold Obligations.RunStatesChangeAsListed
  intro s t hstep
  cases (effect_of_step hstep).runChange with
  | none hrun hreg => cases hs : s.runState <;> simp [hrun, hreg, hs]
  | wait x hs hd hreg => simp [hs, hd, hreg]
  | halt hs ht => simp [hs, ht]
  | deliver k hi hs ht => simp [hi, hs, ht]
  | reset hi ht => simp [hi, ht]

end Sys2Proof.Machine
end

section
/-! PROOFS. Calls and returns, timer steps, the random draw, canonical memories (spec/10_state.md R25, R26, R29, R36). -/

namespace Sys2Proof.Machine

/-! ### Calls and returns -/

theorem runInstrs_cons_of_next {i : Instr} {is : List Instr} {s t : State} (h : exec i s = .next t) :
    runInstrs (i :: is) s = runInstrs is t := by
  simp only [runInstrs, h]

/-- Instruction lists run one after the other. -/
theorem runInstrs_append_of_next {is js : List Instr} {s t : State} (h : runInstrs is s = .next t) :
    runInstrs (is ++ js) s = runInstrs js t := by
  induction is generalizing s with
  | nil => cases h; rfl
  | cons i is ih =>
    obtain ⟨u, hu, -⟩ := exec_effect i s
    rw [runInstrs_cons_of_next hu] at h
    rw [List.cons_append, runInstrs_cons_of_next hu, ih h]

/-- Room for one more entry means that the stack is not full (R25). -/
theorem stackFull_of_room {s : State} (h : ∀ d, s.cfg.stackDepth = some d → s.stack.length < d) : s.stackFull = false := by
  unfold State.stackFull
  split
  · have := h _ ‹_›
    exact decide_eq_false (by omega)
  · rfl

theorem exec_callNnn_of_room {s : State} (h : s.stackFull = false) (nnn : BitVec 12) :
    exec (.callNnn nnn) s = .next ((s.push s.pc).setPc (addrOf nnn)) := by
  simp only [exec, execCallNnn, h, Bool.false_eq_true, if_false]

/-- A return undoes a call. -/
theorem exec_ret_after_call (s : State) (w : Word) : exec .ret ((s.push s.pc).setPc w) = .next s := rfl

/-- Settles O40, by induction on the targets: the outermost call is undone by the last return. -/
theorem nestedCallsAndReturnsRestore : Obligations.NestedCallsAndReturnsRestore := by
  unfold Obligations.NestedCallsAndReturnsRestore
  intro targets
  induction targets with
  | nil => exact fun s _ => rfl
  | cons nnn targets ih =>
    intro s hroom
    have hfull : s.stackFull = false := stackFull_of_room fun d hd => by
      have := hroom d hd
      simp only [List.length_cons] at this
      omega
    have hinner := ih ((s.push s.pc).setPc (addrOf nnn)) fun d hd => by
      have := hroom d hd
      simp only [List.length_cons, setPc_stack, push_stack] at this ⊢
      omega
    rw [List.map_cons, List.length_cons, List.replicate_succ', List.cons_append, ← List.append_assoc,
      runInstrs_cons_of_next (exec_callNnn_of_room hfull nnn), runInstrs_append_of_next hinner,
      runInstrs_cons_of_next (exec_ret_after_call s _)]
    rfl

/-! ### Timer steps -/

theorem countDown_toNat (b : Byte) : (countDown b).toNat = b.toNat - 1 := by
  unfold countDown
  split
  · subst b; rfl
  · bv_omega

/-- Settles O53, by induction on the number of timer steps. -/
theorem timersCountTicks : Obligations.TimersCountTicks := by
  unfold Obligations.TimersCountTicks
  intro n
  induction n with
  | zero => exact fun s => ⟨fun _ => ⟨rfl, rfl⟩, fun _ => rfl⟩
  | succ n ih =>
    intro s
    refine ⟨fun hw => ?_, fun hw => ?_⟩
    · have hstep : s.timerStep = { s with dt := countDown s.dt, st := countDown s.st } := by
        simp only [State.timerStep, hw, Bool.false_eq_true, if_false]
      obtain ⟨hdt, hst⟩ := (ih s.timerStep).1 (by rw [hstep]; exact hw)
      rw [timerSteps, hdt, hst, hstep]
      simp only [countDown_toNat]
      omega
    · have hstep : s.timerStep = s := by simp only [State.timerStep, hw, if_true]
      rw [timerSteps, hstep]
      exact (ih s).2 hw

/-! ### The random draw -/

theorem randByte_toNat (s : State) : s.randByte.toNat = (Config.freeDraw s.draws).val :=
  Nat.mod_eq_of_lt ((Config.freeDraw s.draws).isLt.trans (by decide))

theorem randByte_le (s : State) : s.randByte.toNat ≤ 254 := by
  rw [randByte_toNat]
  exact Nat.le_of_lt_succ (Config.freeDraw s.draws).isLt

theorem readV_rndWith (r : Byte) (x : Reg) (kk : Byte) (s : State) : (rndWith r x kk s).readV x = r &&& kk :=
  readV_writeV_self ..

/-- Settles O18: a draw is at most 254, so under the mask 0xFF it does not give 0xFF. -/
theorem randomMasksADraw : Obligations.RandomMasksADraw := by
  unfold Obligations.RandomMasksADraw
  intro x kk s
  refine ⟨randByte_toNat s, randByte_le s, _, rfl, rfl, readV_rndWith .., ?_, regsKept_rndWith s.randByte x kk s, rfl, rfl⟩
  rintro rfl h
  rw [readV_rndWith, show (0xFF : Byte) = BitVec.allOnes 8 from rfl, BitVec.and_allOnes] at h
  have hle := randByte_le s
  rw [h] at hle
  exact absurd hle (by decide)

/-! ### Canonical memories -/

/-- An address with no listed cell reads as unlisted. -/
theorem read_of_not_listed {font : Vector Byte 80} {m : Memory} {a : Nat} (h : ∀ c ∈ m, c.1 ≠ a) :
    Memory.read font m a = unlisted font a := by
  induction m with
  | nil => rfl
  | cons c m ih =>
    obtain ⟨hc, hm⟩ := List.forall_mem_cons.1 h
    rw [Memory.read, if_neg hc, ih hm]

/-- The first cell of a canonical memory reads as its byte. -/
theorem read_cons_self (font : Vector Byte 80) (c : Host.Cell) (m : Memory) : Memory.read font (c :: m) c.1 = c.2 := by
  rw [Memory.read, if_pos rfl]

/-- Below its first cell a memory with rising addresses reads as unlisted. -/
theorem read_cons_of_lt {font : Vector Byte 80} {c : Host.Cell} {m : Memory} (hm : ∀ d ∈ m, c.1 < d.1) {a : Nat}
    (ha : a < c.1) : Memory.read font (c :: m) a = unlisted font a :=
  read_of_not_listed (List.forall_mem_cons.2 ⟨by omega, fun d hd => by have := hm d hd; omega⟩)

/-- Canonical memories that read the same begin at the same address: the lower of two first cells would read as listed in
one and as unlisted in the other. -/
theorem head_le_of_read_eq {font : Vector Byte 80} {c d : Host.Cell} {m n : Memory}
    (hc : Memory.wf font (c :: m) = true) (hd : Memory.wf font (d :: n) = true)
    (hread : ∀ a, Memory.read font (c :: m) a = Memory.read font (d :: n) a) : d.1 ≤ c.1 := by
  obtain ⟨⟨-, hlisted⟩, -, -⟩ := wf_cons.1 hc
  obtain ⟨-, habove, -⟩ := wf_cons.1 hd
  by_contra hlt
  have h := hread c.1
  rw [read_cons_self, read_cons_of_lt habove (Nat.lt_of_not_le hlt)] at h
  exact hlisted h

/-- Memories that begin with the same cell and read the same have tails that read the same: the tails list nothing at the
first cell's address. -/
theorem read_tail_eq {font : Vector Byte 80} {c : Host.Cell} {m n : Memory} (hm : ∀ d ∈ m, c.1 < d.1)
    (hn : ∀ d ∈ n, c.1 < d.1) (hread : ∀ a, Memory.read font (c :: m) a = Memory.read font (c :: n) a) (a : Nat) :
    Memory.read font m a = Memory.read font n a := by
  by_cases ha : c.1 = a
  · subst ha
    rw [read_of_not_listed fun d hd => (hm d hd).ne', read_of_not_listed fun d hd => (hn d hd).ne']
  · have h := hread a
    rwa [Memory.read, if_neg ha, Memory.read, if_neg ha] at h

/-- No canonical memory with a cell reads as the empty one. -/
theorem exists_read_ne_unlisted {font : Vector Byte 80} {c : Host.Cell} {m : Memory}
    (hc : Memory.wf font (c :: m) = true) : Memory.read font (c :: m) c.1 ≠ Memory.read font [] c.1 := by
  obtain ⟨⟨-, hlisted⟩, -, -⟩ := wf_cons.1 hc
  rw [read_cons_self]
  exact hlisted

/-- Settles O26, by induction on the first memory: equal first cells, then equal tails. -/
theorem canonicalMemoriesAreEqualData : Obligations.CanonicalMemoriesAreEqualData := by
  unfold Obligations.CanonicalMemoriesAreEqualData
  intro font m
  induction m with
  | nil =>
    intro m' _ hm' hread
    cases m' with
    | nil => rfl
    | cons d n => exact absurd (hread d.1).symm (exists_read_ne_unlisted hm')
  | cons c m ih =>
    intro m' hm hm' hread
    cases m' with
    | nil => exact absurd (hread c.1) (exists_read_ne_unlisted hm)
    | cons d n =>
      have haddr : c.1 = d.1 :=
        Nat.le_antisymm (head_le_of_read_eq hm' hm fun a => (hread a).symm) (head_le_of_read_eq hm hm' hread)
      have hbyte : c.2 = d.2 := by
        have h := hread c.1
        rw [read_cons_self, haddr, read_cons_self] at h
        exact h
      obtain rfl : c = d := Prod.ext haddr hbyte
      obtain ⟨-, habove, htail⟩ := wf_cons.1 hm
      obtain ⟨-, habove', htail'⟩ := wf_cons.1 hm'
      rw [ih n htail htail' (read_tail_eq habove habove' hread)]

end Sys2Proof.Machine
end

section
/-! PROOFS. What the host's transactions do between ticks (spec/10_state.md R32, R37; spec/40_engine_cycle.md R90, R98;
spec/60_exceptions.md R230, R231). -/

namespace Sys2Proof.Machine

/-! ### Reset -/

/-- Memory after a `Reset` is its reset contents (R37, R51). -/
theorem resetAll_memRead (s : State) (a : Nat) : s.resetAll.memRead a = unlisted s.cfg.font a := rfl

/-- Above the font it is zero. -/
theorem resetAll_memRead_of_le (s : State) {a : Nat} (h : 80 ≤ a) : s.resetAll.memRead a = 0 := by
  rw [resetAll_memRead, unlisted, dif_neg (Nat.not_lt.2 h)]

/-- Settles O56: the registers, memory and the display by their reset contents, the other fields by `State.resetAll`. -/
theorem resetValues : Obligations.ResetValues := by
  unfold Obligations.ResetValues
  intro s
  have hregs : ∀ r, s.resetAll.readV r = 0 := fun r => Vector.getElem_replicate r.isLt
  have hfont : ∀ (a : Nat) (h : a < 80), s.resetAll.memRead a = s.cfg.font[a] := fun a h => by
    rw [resetAll_memRead, unlisted, dif_pos h]
  exact ⟨hregs, rfl, rfl, rfl, rfl, rfl, rfl, rfl, hfont,
    fun a h _ => resetAll_memRead_of_le s h, cell_replicate, rfl, rfl, rfl, rfl⟩

/-! ### One transaction -/

/-- Between ticks with no fault latched, no slot of a tick is used. -/
theorem slot_eq_zero_of_betweenTicks {s : State} (hb : s.betweenTicks = true) (hf : s.fault = none) : s.slot = 0 := by
  simpa [State.betweenTicks, hf] using hb

/-- Settles O59: a transaction other than `Tick` is one step, and a `Tick` begins with a step of the tick. -/
theorem transactionsRunBetweenTicks : Obligations.TransactionsRunBetweenTicks := by
  unfold Obligations.TransactionsRunBetweenTicks
  intro s rest bytes k hb
  refine ⟨fun hi => ?_, fun hi => ?_, fun hi => ?_, fun hi => ?_, fun hi hf hs => ?_, fun hi hf => ?_⟩
  · exact step_of_transaction s hb hi nofun
  · exact step_of_transaction s hb hi nofun
  · exact step_of_transaction s hb hi nofun
  · exact step_of_transaction s hb hi nofun
  · have hslot := slot_eq_zero_of_betweenTicks hb hf
    rw [step_of_tick s hb hi]
    exact tickStep_of_slot hf (by rw [hslot]; exact hs)
  · rw [step_of_tick s hb hi]
    exact tickStep_halted _ hf

/-! ### Runs of transactions -/

/-- A list of transactions without `Reset` changes what each of them can. -/
theorem onlyHostFields_foldl {es : List HostEvent} (hes : HostEvent.reset ∉ es) (s : State) :
    onlyHostFields s (es.foldl State.transact s) := by
  induction es generalizing s with
  | nil => rfl
  | cons e es ih =>
    obtain ⟨he, hes⟩ := not_or.1 (mt List.mem_cons.2 hes)
    exact (onlyHostFields_transact s (Ne.symm he)).trans (ih hes _)

/-- A transaction leaves the list of those that wait. -/
theorem inbox_transact (s : State) (e : HostEvent) (l : List HostEvent) : ({ s with inbox := l }.transact e).inbox = l := by
  rw [transact_inbox]

/-- A change of the list after a transaction could as well be made before it. -/
theorem setInbox_transact (s : State) (e : HostEvent) (l l' : List HostEvent) :
    { { s with inbox := l }.transact e with inbox := l' } = { s with inbox := l' }.transact e := by
  rw [transact_inbox, transact_inbox s e l']

/-- With none waiting, the first k waiting transactions do nothing. -/
theorem foldl_transact_of_inbox_nil {s : State} (hi : s.inbox = []) (k : Nat) :
    (s.inbox.take k).foldl State.transact { s with inbox := s.inbox.drop k } = s := by
  rw [hi, List.take_nil, List.drop_nil, List.foldl_nil, ← hi]

/-- A run of k steps between ticks with no `Tick` waiting is the first k waiting transactions. -/
theorem run_of_no_tick (k : Nat) (s : State) (hb : s.betweenTicks = true) (htick : HostEvent.tick ∉ s.inbox) :
    Sys2Proof.core.run k s = .next ((s.inbox.take k).foldl State.transact { s with inbox := s.inbox.drop k }) := by
  induction k generalizing s with
  | zero => rfl
  | succ k ih =>
    rcases hi : s.inbox with _ | ⟨e, rest⟩
    · rw [← hi]
      exact (run_of_inbox_nil s hb hi _).trans (congrArg _ (foldl_transact_of_inbox_nil hi _).symm)
    · rw [hi] at htick
      obtain ⟨he, hrest⟩ := not_or.1 (mt List.mem_cons.2 htick)
      have hrun := ih ({ s with inbox := rest }.transact e) (transact_betweenTicks { s with inbox := rest } e hb)
        (by rwa [inbox_transact])
      rw [inbox_transact, setInbox_transact] at hrun
      rw [core_run_succ s k (step_of_transaction s hb hi (Ne.symm he)), hrun]
      rfl

/-- The word that a fetch after `Reset` reads with nothing loaded is 0 (R231). -/
theorem resetAll_fetchWord (s : State) : s.resetAll.fetchWord = 0 := by
  have hpc : 80 ≤ s.resetAll.pc.toNat := show 80 ≤ (0x200 : Word).toNat by decide
  rw [State.fetchWord, resetAll_memRead_of_le s hpc, resetAll_memRead_of_le s (hpc.trans (Nat.le_succ _))]
  rfl

/-- No row selects the word 0. -/
theorem decode_zero : decode 0 = .undefinedWord 0 := by decide

theorem executeWord_of_undefined {w u : Word} (hd : decode w = .undefinedWord u) (s : State) :
    executeWord w s = .next (s.raise (.decodeError u)) := by
  simp only [executeWord, hd]

/-- A raise after the fetch records the address of the instruction fetched, PC having advanced (R92, R200). -/
theorem fetched_raise (s : State) (e : FatalError) :
    s.fetched.raise e = { s with pc := s.pc + 2, slot := 0, fault := some ⟨e, s.pc⟩ } := by
  rw [raise_eq, fetched_pc, BitVec.add_sub_cancel]
  rfl

/-- The first slot after `Reset` with nothing loaded raises `DecodeError(0x0000)` at 0x200: no row selects 0 (R231). -/
theorem slotStep_resetAll (s : State) : slotStep s.resetAll =
    .next { s.resetAll with pc := 0x202, fault := some ⟨.decodeError 0, 0x200⟩ } := by
  rw [slotStep_of_le rfl (show (0x200 : Word).toNat ≤ 0xFFE by decide), resetAll_fetchWord,
    executeWord_of_undefined decode_zero, fetched_raise, show s.resetAll.pc + 2 = 0x202 from rfl]
  rfl

/-- A `Tick` after `Reset` begins with that slot. -/
theorem step_resetAll_of_tick {s : State} {rest : List HostEvent} (hs : 0 < s.cfg.ipt) (hi : s.inbox = .tick :: rest) :
    step s.resetAll = slotStep { s with inbox := rest }.resetAll := by
  rw [step_of_tick s.resetAll rfl hi]
  exact tickStep_of_slot rfl hs

/-- Settles O57: a run with no `Tick` is the waiting transactions, and the first slot after `Reset` finds nothing loaded. -/
theorem nothingExecutesUntilTick : Obligations.NothingExecutesUntilTick := by
  unfold Obligations.NothingExecutesUntilTick
  refine ⟨fun k s hb htick => ⟨_, run_of_no_tick k s hb htick, rfl, fun hreset => ?_, fun hi => ?_⟩, fun s rest hs hi => ?_⟩
  · exact onlyHostFields_foldl (fun h => hreset (List.mem_of_mem_take h)) _
  · exact foldl_transact_of_inbox_nil hi k
  · exact (step_resetAll_of_tick hs hi).trans (slotStep_resetAll _)

end Sys2Proof.Machine
end

section
/-! PROOFS. Decoding undoes encoding, and the words written out (spec/30_encoding.md R70 to R75). -/

namespace Sys2Proof

/-! ### Words laid out by the encoder -/

/-- Top nibble 8: the low nibble is the sub-discriminant (R75). -/
theorem decode_wordXyn_8 (x y : Reg) {n : Nat} (hn : n < 16) : decode (wordXyn 0x8 x y n) = decode8 (wordXyn 0x8 x y n) := by
  simp only [decode, fieldOp_wordXyn x y (show 0x8 < 16 by decide) hn]

/-- Top nibble F: the low byte is the sub-discriminant (R75). -/
theorem decode_wordXkk_F (x : Reg) (kk : Byte) : decode (wordXkk 0xF x kk) = decodeF (wordXkk 0xF x kk) := by
  simp only [decode, fieldOp_wordXkk x kk (show 0xF < 16 by decide)]

/-- Decoding undoes encoding: each of the encoder's formats keeps the fields that the decoder reads. -/
theorem decode_encode {i : Instr} (hi : i.wellFormed = true) : decode (encode i) = .instr i := by
  cases i with
  | cls | ret => decide
  | jpNnn | callNnn | ldINnn | jpV0Nnn => simp [encode, decode, fieldOp_wordNnn, fieldNnn_wordNnn]
  | seVxKk | sneVxKk | ldVxKk | addVxKk | rndVxKk | skpVx | sknpVx =>
    simp [encode, decode, fieldOp_wordXkk, fieldX_wordXkk, fieldKk_wordXkk]
  | seVxVy | sneVxVy => simp [encode, decode, fieldOp_wordXyn, fieldX_wordXyn, fieldY_wordXyn, fieldN_wordXyn]
  | drwVxVyN x y n =>
    have hn : n < 16 := by simpa [Instr.wellFormed] using hi
    simp [encode, decode, fieldOp_wordXyn, fieldX_wordXyn, fieldY_wordXyn, fieldN_wordXyn, hn]
  | ldVxVy | orVxVy | andVxVy | xorVxVy | addVxVy | subVxVy | shrVx | subnVxVy | shlVx =>
    simp [encode, decode_wordXyn_8, decode8, fieldX_wordXyn, fieldY_wordXyn, fieldN_wordXyn]
  | ldVxDt | ldVxK | ldDtVx | ldStVx | addIVx | ldFVx | ldBVx | ldMemIVx | ldVxMemI =>
    simp [encode, decode_wordXkk_F, decodeF, fieldX_wordXkk, fieldKk_wordXkk]

/-- A word of the opcode table is decoded as the word it is: its two bytes make it again (R53, R70). -/
theorem decodeTableWord_toNat {w : Word} {i : Instr} (h : decode w = .instr i) : decodeTableWord 16 w.toNat = some i := by
  rw [decodeTableWord, if_pos ⟨Nat.le_refl 16, w.isLt⟩, BitVec.ofNat_toNat, BitVec.setWidth_eq, decodeBytes, wordOfBytes_bytes, h]

/-- Settles O5: the decoder evaluated at the seven words. -/
theorem writtenOutWordsDecode : Obligations.WrittenOutWordsDecode := by
  unfold Obligations.WrittenOutWordsDecode
  decide

end Sys2Proof
end

section
/-! PROOFS. Bytes stored by a `Load` and by Fx55, and what the fetch reads of them (spec/20_memory.md R53, R61, R63, R156). -/

namespace Sys2Proof.Machine

/-! ### Lists of byte writes -/

/-- Each byte of a list stands at its place. -/
theorem memRead_memWriteList_add (s : State) (a : Nat) (bs : List Byte) {j : Nat} (h : j < bs.length) :
    (s.memWriteList a bs).memRead (a + j) = bs[j] := by
  simp [memRead_memWriteList, h]

/-- Stored registers stand at their numbers' places (R154). -/
theorem memRead_memWriteList_regsBelow (s : State) (a : Nat) {k : Nat} (hk : k ≤ 16) {r : Reg} (hr : r.val < k) :
    (s.memWriteList a (s.regsBelow k)).memRead (a + r.val) = s.readV r := by
  have hlen := regsBelow_length s k hk
  rw [memRead_memWriteList_add s a _ (by rwa [hlen]), regsBelow_getElem s k r.val hk]

/-! ### Load -/

/-- With no fault latched, an image that fits is written to 0x200 upwards (R63). -/
theorem load_of_le {s : State} (hf : s.fault = none) {bytes : List Byte} (h : bytes.length ≤ 3584) :
    s.load bytes = (s.memWriteList Config.loadBase bytes, .ok) := by
  simp only [State.load, hf, if_neg (Nat.not_lt.2 h)]

/-- A longer one is refused whole (R63, R209). -/
theorem load_of_lt {s : State} (hf : s.fault = none) {bytes : List Byte} (h : 3584 < bytes.length) :
    s.load bytes = (s, .loadTooLarge) := by
  simp only [State.load, hf, if_pos h]

/-- So is any image with a fault latched (R98). -/
theorem load_of_fault {s : State} {r : FaultRecord} (hf : s.fault = some r) (bytes : List Byte) :
    s.load bytes = (s, .faulted r) := by
  simp only [State.load, hf]

/-- Settles O58: an accepted load is a list of byte writes at 0x200, and a refused one is none. -/
theorem loadPlacesTheImage : Obligations.LoadPlacesTheImage := by
  unfold Obligations.LoadPlacesTheImage
  refine fun bytes s => ⟨fun hf h => ⟨_, load_of_le hf h, fun j hj => ?_, ?_, ?_⟩, fun hf h => load_of_lt hf h,
    fun r hf => load_of_fault hf bytes⟩
  · exact memRead_memWriteList_add s _ bytes hj
  · exact bytesKept_memWriteList s _ bytes
  · exact memWriteList_eq s _ bytes

/-! ### Fx55 and the fetch -/

/-- Fx55 within memory stores V0 to Vx at I upwards (R154). -/
theorem exec_ldMemIVx_of_lt {x : Reg} {s : State} (h : s.iReg.toNat + x.val < 4096) :
    exec (.ldMemIVx x) s = .next (s.memWriteList s.iReg.toNat (s.regsBelow (x.val + 1))) := by
  have hspan : spanFault s.base (x.val + 1) = none := (spanFault_eq_none ..).2 (.inr h)
  simp only [exec, execLdMemIVx, hspan]
  rfl

/-- Settles O25: the fetch reads memory byte by byte, so it finds what a store left at each of its two addresses. -/
theorem storesAreSeenByFetch : Obligations.StoresAreSeenByFetch := by
  unfold Obligations.StoresAreSeenByFetch
  refine ⟨fun s a b => ?_, fun s x h hpc hx => ⟨_, exec_ldMemIVx_of_lt h, ?_⟩⟩
  · simp only [State.fetchWord, memWrite_pc, memRead_memWrite]
  · have hv0 := memRead_memWriteList_regsBelow s s.iReg.toNat x.isLt (r := 0) (Nat.succ_pos _)
    have hv1 := memRead_memWriteList_regsBelow s s.iReg.toNat x.isLt (r := 1) (Nat.lt_succ_of_le hx)
    rw [← hv0, ← hv1, hpc, memWriteList_eq]
    rfl

end Sys2Proof.Machine
end

section
/-! PROOFS. The errors of Dxyn (spec/44_display.md R166, R169; spec/60_exceptions.md R205, R206). -/

namespace Sys2Proof.Machine

/-- In a list ordered by `R`, a search finds a member that passes when none before it passes. -/
theorem find?_eq_some_of_pairwise {α : Type} {R : α → α → Prop} {P : α → Bool} {l : List α} {p : α} (hl : l.Pairwise R)
    (hp : p ∈ l) (hpass : P p = true) (hbefore : ∀ q ∈ l, R q p → P q = false) : l.find? P = some p := by
  induction l with
  | nil => exact absurd hp List.not_mem_nil
  | cons q l ih =>
    obtain ⟨hq, hl⟩ := List.pairwise_cons.1 hl
    obtain ⟨hqp, hbefore⟩ := List.forall_mem_cons.1 hbefore
    rcases List.mem_cons.1 hp with rfl | hp
    · exact List.find?_cons_of_pos hpass
    · rw [List.find?_cons_of_neg (Bool.eq_false_iff.1 (hqp (hq p hp)))]
      exact ih hl hp hbefore

/-- The first position off the grid, in row-major order, is the one that the grid check reports (R169). -/
theorem firstOffGrid_drawCells {s : State} {x y : Reg} {n r c : Nat} (hr : r < n) (hc : c < 8)
    (hbit : (s.memRead (s.base + r)).getLsbD (7 - c) = true)
    (hoff : inGrid ((s.readV x).toNat + c) ((s.readV y).toNat + r) = false)
    (hfirst : ∀ r', r' < n → ∀ c', c' < 8 → (r' < r ∨ r' = r ∧ c' < c) →
      (s.memRead (s.base + r')).getLsbD (7 - c') = true →
      inGrid ((s.readV x).toNat + c') ((s.readV y).toNat + r') = true) :
    firstOffGrid (s.drawCells x y n) = some ((s.readV x).toNat + c, (s.readV y).toNat + r) := by
  refine find?_eq_some_of_pairwise (spriteCells_pairwise ..) ((mem_drawCells ..).2 ⟨r, c, hr, hc, hbit, rfl⟩)
    (by simp only [hoff, Bool.not_false]) fun q hq horder => ?_
  obtain ⟨r', c', hr', hc', hbit', rfl⟩ := (mem_drawCells ..).1 hq
  have hbefore : r' < r ∨ r' = r ∧ c' < c := by
    simp only at horder
    omega
  rw [hfirst r' hr' c' hc' hbefore hbit', Bool.not_true]

/-- A check of Dxyn that fails raises its error and changes nothing else (R205). -/
theorem exec_drwVxVyN_of_error {s : State} {x y : Reg} {n : Nat} {e : FatalError} (h : s.drawError x y n = some e) :
    exec (.drwVxVyN x y n) s = .next (s.afterFault e) := by
  simp only [exec, execDrwVxVyN, h]
  rfl

/-- The memory check comes first (R206). -/
theorem drawError_of_spanFault {s : State} {n a : Nat} (h : spanFault s.base n = some a) (x y : Reg) :
    s.drawError x y n = some (.memoryOutOfBounds a) := by
  simp only [State.drawError, h]

/-- The grid check follows it (R166, R169). -/
theorem drawError_of_firstOffGrid {s : State} {x y : Reg} {n : Nat} {p : Nat × Nat} (hspan : spanFault s.base n = none)
    (h : firstOffGrid (s.drawCells x y n) = some p) : s.drawError x y n = some (.drawOutOfGrid p.1 p.2) := by
  simp only [State.drawError, hspan, h]

/-- Settles O29: the two checks in their order, the second a search of the positions in row-major order. -/
theorem drawErrors : Obligations.DrawErrors := by
  unfold Obligations.DrawErrors
  refine fun x y n s => ⟨fun hn hout => ?_, fun r c hin hr hc hbit hoff hfirst => ?_⟩
  · have hspan : spanFault s.base n = some (max s.iReg.toNat 4096) := (spanFault_eq_some ..).2 ⟨⟨hn, hout⟩, rfl⟩
    exact exec_drwVxVyN_of_error (drawError_of_spanFault hspan x y)
  · have hspan : spanFault s.base n = none := (spanFault_eq_none ..).2 (.inr hin)
    exact exec_drwVxVyN_of_error
      (drawError_of_firstOffGrid hspan (firstOffGrid_drawCells hr hc hbit hoff hfirst))

end Sys2Proof.Machine
end

section
/-! PROOFS. The step that fetches: which instruction it runs, inside a tick, at a word placed for it, and at the first
`Tick` after `Reset` (spec/40_engine_cycle.md R91 to R93, R101; spec/60_exceptions.md R230 to R232). -/

namespace Sys2Proof.Machine

/-! ### The instruction that runs -/

theorem executeWord_of_instr {w : Word} {i : Instr} (hd : decode w = .instr i) (s : State) :
    executeWord w s = exec i s := by
  simp only [executeWord, hd]

/-- The step of a state that fetches within memory executes the word at PC (R91, R92). -/
theorem step_of_fetches_of_le {s : State} (h : s.fetches) (hpc : s.pc.toNat ≤ 0xFFE) :
    step s = executeWord s.fetchWord s.inTick.fetched := by
  have ⟨_, hw, _, _⟩ := h
  rw [step_of_fetches h, slotStep_of_le (s := s.inTick) hw hpc]
  rfl

/-- Settles O41: the word at PC is the two bytes there, big-endian. -/
theorem stepRunsTheDecodedInstruction : Obligations.StepRunsTheDecodedInstruction := by
  unfold Obligations.StepRunsTheDecodedInstruction
  intro i s h hpc hd
  rw [step_of_fetches_of_le h hpc, executeWord_of_instr (w := s.fetchWord) hd]
  rfl

/-- A step that fetches a word no row selects raises `DecodeError`, PC having advanced (R93, R202). -/
theorem step_of_fetches_undefined {s : State} {w : Word} (h : s.fetches) (hpc : s.pc.toNat ≤ 0xFFE)
    (hd : decode s.fetchWord = .undefinedWord w) :
    step s = .next { s.inTick with pc := s.pc + 2, slot := 0, fault := some ⟨.decodeError w, s.pc⟩ } := by
  rw [step_of_fetches_of_le h hpc, executeWord_of_undefined hd, fetched_raise]
  rfl

/-! ### The word placed for the next step -/

/-- All that placing a word changes further in the state made ready is memory. -/
theorem placeWord_eq (s : State) (w : Word) : s.placeWord w = { s.readyToFetch with mem := (s.placeWord w).mem } :=
  memWriteList_eq ..

/-- The step of the state with a word placed fetches. -/
theorem placeWord_fetches (s : State) (w : Word) : (s.placeWord w).fetches := by
  rw [placeWord_eq]
  exact ⟨rfl, rfl, Nat.lt_of_lt_of_le Nat.zero_lt_one (Nat.le_max_left 1 _), fun _ => rfl⟩

theorem placeWord_pc (s : State) (w : Word) : (s.placeWord w).pc = s.readyToFetch.pc := by rw [placeWord_eq]

/-- What it fetches is the word placed (R53). -/
theorem placeWord_fetchWord (s : State) (w : Word) : (s.placeWord w).fetchWord = w := by
  have h0 : (s.placeWord w).memRead s.readyToFetch.pc.toNat = highByte w :=
    memRead_memWriteList_add s.readyToFetch _ [highByte w, lowByte w] Nat.zero_lt_two
  have h1 : (s.placeWord w).memRead (s.readyToFetch.pc.toNat + 1) = lowByte w :=
    memRead_memWriteList_add s.readyToFetch _ [highByte w, lowByte w] Nat.one_lt_two
  rw [State.fetchWord, placeWord_pc, h0, h1, wordOfBytes_bytes]

/-- Settles O44: the word placed is the one fetched, and it decodes to the instruction it encodes. -/
theorem placedInstructionRunsNext : Obligations.PlacedInstructionRunsNext := by
  unfold Obligations.PlacedInstructionRunsNext
  intro i s hi
  have hplaced : s.withFetchWord 16 (encode i).toNat = s.placeWord (encode i) := by
    rw [State.withFetchWord, BitVec.ofNat_toNat, BitVec.setWidth_eq]
  have hpc : (s.placeWord (encode i)).pc.toNat ≤ 0xFFE := by
    rw [placeWord_pc]
    exact readyToFetch_pc s
  refine ⟨decodeTableWord_toNat (decode_encode hi), ?_⟩
  rw [hplaced, step_of_fetches_of_le (placeWord_fetches ..) hpc, placeWord_fetchWord, executeWord_of_instr (decode_encode hi)]

/-! ### Inside a tick -/

/-- No instruction writes the waiting transactions or the key levels (R39). -/
theorem Effect.inbox_keys {s t : State} {i : Instr} (heff : Effect s i t) : t.inbox = s.inbox ∧ t.keys = s.keys := by
  cases heff with
  | bcd x | store x => rw [memWriteList_eq]; exact ⟨rfl, rfl⟩
  | draw x y n => rw [drawEffect_eq]; exact ⟨rfl, rfl⟩
  | _ => exact ⟨rfl, rfl⟩

/-- No slot writes the waiting transactions or the key levels (R101, R187). -/
theorem SlotEffect.inbox_keys {s t : State} (heff : SlotEffect s t) : t.inbox = s.inbox ∧ t.keys = s.keys := by
  cases heff with
  | idle | outOfBounds | undefinedWord => exact ⟨rfl, rfl⟩
  | instr i hw hpc hd heff => exact heff.inbox_keys

/-- Settles O48: inside a tick a step is a slot or the end of the tick. -/
theorem ticksAreNotInterrupted : Obligations.TicksAreNotInterrupted := by
  unfold Obligations.TicksAreNotInterrupted
  intro s t hf hslot hstep
  have hin : s.inTick = s := by simp only [State.inTick, if_neg hslot]
  have hinside : s.betweenTicks ≠ true := by
    rw [betweenTicks_eq_false.2 ⟨hslot, hf⟩]
    exact Bool.false_ne_true
  cases effect_of_step hstep with
  | quiet hb => exact absurd hb hinside
  | transaction e rest hb => exact absurd hb hinside
  | halted rest hne => exact absurd hf hne
  | slot hf htick hs heff =>
    rw [hin] at heff
    exact heff.inbox_keys
  | tickEnd =>
    rw [hin, tickEnd_eq]
    exact ⟨rfl, rfl⟩

/-! ### The first Tick after Reset -/

/-- Between ticks, a run as long as a list of waiting transactions without `Tick` is those transactions, whatever waits
after them. -/
theorem run_of_transactions {es rest : List HostEvent} {s : State} (hb : s.betweenTicks = true)
    (htick : HostEvent.tick ∉ es) (hi : s.inbox = es ++ rest) :
    Sys2Proof.core.run es.length s = .next (es.foldl State.transact { s with inbox := rest }) := by
  induction es generalizing s with
  | nil =>
    have hs : { s with inbox := rest } = s := by rw [← List.nil_append rest, ← hi]
    exact congrArg Host.Outcome.next hs.symm
  | cons e es ih =>
    obtain ⟨he, hes⟩ := not_or.1 (mt List.mem_cons.2 htick)
    have hrun := ih (s := { s with inbox := es ++ rest }.transact e)
      (transact_betweenTicks { s with inbox := es ++ rest } e hb) hes (inbox_transact ..)
    rw [setInbox_transact] at hrun
    exact (core_run_succ s es.length (step_of_transaction s hb hi (Ne.symm he))).trans hrun

/-- No transaction sets the pause latch: only Fx0A does (R27). -/
theorem transact_wait_of_not_wait {s : State} (hw : s.wait = false) (e : HostEvent) : (s.transact e).wait = false := by
  cases e with
  | reset => rfl
  | keyDown k => exact (keyDown_wait s k).trans (by rw [hw, Bool.and_false])
  | load bytes => exact (transact_wait s (e := .load bytes) nofun nofun).trans hw
  | tick | keyUp => exact hw

/-- Nor does a list of them. -/
theorem foldl_transact_wait {s : State} (hw : s.wait = false) (es : List HostEvent) :
    (es.foldl State.transact s).wait = false := by
  induction es generalizing s with
  | nil => exact hw
  | cons e es ih => exact ih (transact_wait_of_not_wait hw e)

/-- Where the first `Tick` after a `Reset` waits: at the load base, between ticks, with neither latch set (R230). -/
structure ReadyAtLoadBase (t : State) (rest : List HostEvent) : Prop where
  pc    : t.pc = 0x200
  slot  : t.slot = 0
  fault : t.fault = none
  wait  : t.wait = false
  slots : 0 < t.cfg.ipt
  inbox : t.inbox = .tick :: rest

/-- Loads and key transactions after a `Reset` leave the machine there. -/
theorem readyAtLoadBase_foldl {es rest : List HostEvent} {s : State} (hs : 0 < s.cfg.ipt) (hreset : HostEvent.reset ∉ es)
    (hi : s.inbox = .tick :: rest) : ReadyAtLoadBase (es.foldl State.transact s.resetAll) rest := by
  have hwait := foldl_transact_wait (s := s.resetAll) rfl es
  have hfields := onlyHostFields_foldl hreset s.resetAll
  generalize es.foldl State.transact s.resetAll = t at hwait hfields
  exact {
    pc := by rw [hfields]; rfl
    slot := by rw [hfields]; rfl
    fault := by rw [hfields]; rfl
    wait := hwait
    slots := by rw [hfields]; exact hs
    inbox := by rw [hfields]; exact hi }

namespace ReadyAtLoadBase

variable {t : State} {rest : List HostEvent} (h : ReadyAtLoadBase t rest)
include h

theorem fetches : t.fetches := ⟨h.fault, h.wait, by rw [h.slot]; exact h.slots, fun _ => by rw [h.inbox]; rfl⟩

theorem pc_le : t.pc.toNat ≤ 0xFFE := by rw [h.pc]; decide

theorem inTick_eq : t.inTick = { t with inbox := rest } := by
  simp only [State.inTick, h.slot, h.inbox, if_true, List.tail_cons]

theorem fetchWord_eq : t.fetchWord = wordOfBytes (t.memRead 0x200) (t.memRead 0x201) := by
  rw [State.fetchWord, h.pc]
  rfl

/-- The first `Tick` runs the instruction at the load base (R92, R232). -/
theorem step_of_instr {i : Instr} (hd : decode t.fetchWord = .instr i) :
    step t = exec i { t with pc := 0x202, slot := 1, inbox := rest } := by
  rw [step_of_fetches_of_le h.fetches h.pc_le, executeWord_of_instr hd, h.inTick_eq, State.fetched, h.pc, h.slot]
  rfl

/-- Where no row selects the word there, it raises `DecodeError` (R231). -/
theorem step_of_undefined {w : Word} (hd : decode t.fetchWord = .undefinedWord w) :
    step t = .next { t with pc := 0x202, inbox := rest, fault := some ⟨.decodeError w, 0x200⟩ } := by
  rw [step_of_fetches_undefined h.fetches h.pc_le hd, h.inTick_eq, h.pc, ← h.slot]
  rfl

end ReadyAtLoadBase

/-- An image loaded after a `Reset` stands at the load base (R63). -/
theorem memRead_load_resetAll (s : State) {bytes : List Byte} (hlen : bytes.length ≤ 3584) {j : Nat}
    (hj : j < bytes.length) : (s.resetAll.load bytes).1.memRead (0x200 + j) = bytes[j] := by
  rw [load_of_le rfl hlen]
  exact memRead_memWriteList_add s.resetAll _ bytes hj

/-- Settles O60: the steps before the `Tick` are the transactions, which leave PC at the load base. -/
theorem firstTickFetchesAtLoadBase : Obligations.FirstTickFetchesAtLoadBase := by
  unfold Obligations.FirstTickFetchesAtLoadBase
  intro es rest s hb hs htick hreset hi
  have hrun := run_of_transactions (es := .reset :: es) hb (List.not_mem_cons_of_ne_of_not_mem nofun htick) hi
  have hready := readyAtLoadBase_foldl (s := { s with inbox := .tick :: rest }) hs hreset rfl
  refine ⟨_, hrun, hready.pc, hready.inbox, fun i hd => ?_, fun w hd => ?_, ?_⟩
  · exact hready.step_of_instr (by rw [hready.fetchWord_eq]; exact hd)
  · exact hready.step_of_undefined (by rw [hready.fetchWord_eq]; exact hd)
  · rintro bytes rfl hlen j hj
    exact memRead_load_resetAll _ hlen hj

end Sys2Proof.Machine
end

section
/-! PROOFS. The decoder drops no bit of a word, and selects what the rows of the opcode map select
(spec/30_encoding.md R70 to R77); the step that fetches an undefined word (spec/60_exceptions.md R202). -/

namespace Sys2Proof

/-! ### Decoding undoes encoding -/

/-- Settles O1: each format of the encoder keeps the fields that the decoder reads. -/
theorem decodeOfEncodeIsTheInstruction : Obligations.DecodeOfEncodeIsTheInstruction := by
  unfold Obligations.DecodeOfEncodeIsTheInstruction
  exact fun _ => decode_encode

/-! ### A word laid out again from its fields (R71, R72) -/

section
variable {w : Word} {op n : Nat} {kk : Byte}

theorem fieldOp_lt (w : Word) : fieldOp w < 16 := BitVec.isLt _

theorem fieldN_lt (w : Word) : fieldN w < 16 := BitVec.isLt _

theorem wordNnn_of_fields (hop : fieldOp w = op) : wordNnn op (fieldNnn w) = w := by
  subst hop
  apply BitVec.eq_of_toNat_eq
  rw [wordNnn_toNat (fieldOp_lt w), fieldOp_eq, fieldNnn_toNat]
  omega

theorem wordXkk_of_fields (hop : fieldOp w = op) (hkk : fieldKk w = kk) : wordXkk op (fieldX w) kk = w := by
  subst hop hkk
  apply BitVec.eq_of_toNat_eq
  rw [wordXkk_toNat (fieldOp_lt w), fieldOp_eq, fieldX_val, fieldKk_toNat]
  omega

theorem wordXyn_of_fields (hop : fieldOp w = op) (hn : fieldN w = n) : wordXyn op (fieldX w) (fieldY w) n = w := by
  subst hop hn
  apply BitVec.eq_of_toNat_eq
  rw [wordXyn_toNat (fieldOp_lt w) _ _ (fieldN_lt w), fieldOp_eq, fieldX_val, fieldY_val, fieldN_eq]
  omega

end

/-! ### Encoding undoes decoding -/

/-- `d` keeps the whole of `w`: a well-formed instruction whose word is `w`, or `Undefined` with `w` itself. -/
def Decoded.Keeps (w : Word) : Decoded → Prop
  | .instr i => i.wellFormed = true ∧ encode i = w
  | .undefinedWord u => u = w

theorem decode8_keeps {w : Word} (hop : fieldOp w = 0x8) : (decode8 w).Keeps w := by
  unfold decode8
  split
  case h_10 => rfl
  all_goals exact ⟨rfl, wordXyn_of_fields hop ‹_›⟩

theorem decodeF_keeps {w : Word} (hop : fieldOp w = 0xF) : (decodeF w).Keeps w := by
  unfold decodeF
  split
  case h_10 => rfl
  all_goals exact ⟨rfl, wordXkk_of_fields hop (BitVec.eq_of_toNat_eq ‹_›)⟩

/-- The decoder keeps every bit of a word. Its arms are taken by the format of what they answer (R72, R75): `h_1` is top
nibble 0, with the two fixed words, and so on in the order of the nibbles. -/
theorem decode_keeps (w : Word) : (decode w).Keeps w := by
  unfold decode
  split
  case h_1 =>
    split_ifs with hcls hret
    · exact ⟨rfl, hcls.symm⟩
    · exact ⟨rfl, hret.symm⟩
    · rfl
  case h_2 hop | h_3 hop | h_11 hop | h_12 hop => exact ⟨rfl, wordNnn_of_fields hop⟩
  case h_4 hop | h_5 hop | h_7 hop | h_8 hop | h_13 hop => exact ⟨rfl, wordXkk_of_fields hop rfl⟩
  case h_6 hop | h_10 hop =>
    split_ifs with hn
    · exact ⟨rfl, wordXyn_of_fields hop hn⟩
    · rfl
  case h_14 hop => exact ⟨decide_eq_true (fieldN_lt w), wordXyn_of_fields hop rfl⟩
  case h_15 hop =>
    split_ifs with hskp hsknp
    · exact ⟨rfl, wordXkk_of_fields hop hskp⟩
    · exact ⟨rfl, wordXkk_of_fields hop hsknp⟩
    · rfl
  case h_9 hop => exact decode8_keeps hop
  case h_16 =>
    have := fieldOp_lt w
    simp only [imp_false] at *
    exact decodeF_keeps (by omega)

theorem encode_of_decode {w : Word} {i : Instr} (hd : decode w = .instr i) : i.wellFormed = true ∧ encode i = w := by
  have hkeeps := decode_keeps w
  rwa [hd] at hkeeps

theorem undefinedWord_of_decode {w u : Word} (hd : decode w = .undefinedWord u) : u = w := by
  have hkeeps := decode_keeps w
  rwa [hd] at hkeeps

/-- Settles O2: every arm of the decoder keeps all the fields of its format. -/
theorem encodeOfDecodeIsTheWord : Obligations.EncodeOfDecodeIsTheWord := by
  unfold Obligations.EncodeOfDecodeIsTheWord
  exact fun _ _ => encode_of_decode

/-! ### The rows of the opcode map -/

/-- The row of R74 that a decoded word belongs to. -/
def Decoded.row : Decoded → Option OpcodeRow
  | .instr i => some (rowOf i)
  | .undefinedWord _ => none

theorem fieldOp_of_selects_F000 {w b : Word} (h : (OpcodeRow.mk 0xF000 b).selects w = true) : fieldOp w = b.toNat / 4096 := by
  rw [selects_F000] at h
  rw [fieldOp_eq]
  omega

theorem fields_of_selects_F00F {w b : Word} (h : (OpcodeRow.mk 0xF00F b).selects w = true) :
    fieldOp w = b.toNat / 4096 ∧ fieldN w = b.toNat % 16 := by
  rw [selects_F00F] at h
  rw [fieldOp_eq, fieldN_eq]
  omega

theorem fields_of_selects_F0FF {w b : Word} (h : (OpcodeRow.mk 0xF0FF b).selects w = true) :
    fieldOp w = b.toNat / 4096 ∧ fieldKk w = b.setWidth 8 := by
  rw [selects_F0FF] at h
  rw [fieldOp_eq, ← BitVec.toNat_inj, fieldKk_toNat, BitVec.toNat_setWidth]
  omega

/-- A word that the row of an instruction selects decodes to an instruction of that row: the row fixes the fields that
the decoder branches on. -/
theorem row_decode_of_rowOf_selects {w : Word} {i : Instr} (h : (rowOf i).selects w = true) :
    (decode w).row = some (rowOf i) := by
  cases i with
  | cls | ret =>
    obtain rfl := (selects_FFFF w _).1 h
    rfl
  | jpNnn | callNnn | seVxKk | sneVxKk | ldVxKk | addVxKk | ldINnn | jpV0Nnn | rndVxKk | drwVxVyN =>
    have hop := fieldOp_of_selects_F000 h
    simp [decode, hop, Decoded.row, rowOf]
  | seVxVy | sneVxVy =>
    obtain ⟨hop, hn⟩ := fields_of_selects_F00F h
    simp [decode, hop, hn, Decoded.row, rowOf]
  | ldVxVy | orVxVy | andVxVy | xorVxVy | addVxVy | subVxVy | shrVx | subnVxVy | shlVx =>
    obtain ⟨hop, hn⟩ := fields_of_selects_F00F h
    simp [decode, decode8, hop, hn, Decoded.row, rowOf]
  | skpVx | sknpVx =>
    obtain ⟨hop, hkk⟩ := fields_of_selects_F0FF h
    simp [decode, hop, hkk, Decoded.row, rowOf]
  | ldVxDt | ldVxK | ldDtVx | ldStVx | addIVx | ldFVx | ldBVx | ldMemIVx | ldVxMemI =>
    obtain ⟨hop, hkk⟩ := fields_of_selects_F0FF h
    simp [decode, decodeF, hop, hkk, Decoded.row, rowOf]

/-- Each of the 34 rows is the row of an instruction: its own match word decodes to one. -/
theorem row_decode_bits : ∀ r ∈ opcodeRows, (decode r.bits).row = some r := by decide

theorem exists_rowOf_of_row_eq {d : Decoded} {r : OpcodeRow} (h : d.row = some r) : ∃ i, d = .instr i ∧ rowOf i = r := by
  cases d with
  | instr i => exact ⟨i, rfl, Option.some.inj h⟩
  | undefinedWord => cases h

/-- The decoder follows the table: what a row selects decodes to an instruction of that row (R74, R75). -/
theorem row_decode_of_selects {r : OpcodeRow} (hr : r ∈ opcodeRows) {w : Word} (h : r.selects w = true) :
    (decode w).row = some r := by
  obtain ⟨i, -, rfl⟩ := exists_rowOf_of_row_eq (row_decode_bits r hr)
  exact row_decode_of_rowOf_selects h

/-- The word of a well-formed instruction is selected by the instruction's own row, one of the 34. -/
theorem rowOf_selects_encode (i : Instr) : Laws.RowSelected.Statement i := by
  open Laws.RowSelected in
  cases i
  exacts [cls, ret, jpNnn _, callNnn _, seVxKk _ _, sneVxKk _ _, seVxVy _ _, ldVxKk _ _, addVxKk _ _, ldVxVy _ _,
    orVxVy _ _, andVxVy _ _, xorVxVy _ _, addVxVy _ _, subVxVy _ _, shrVx _ _, subnVxVy _ _, shlVx _ _, sneVxVy _ _,
    ldINnn _, jpV0Nnn _, rndVxKk _ _, drwVxVyN _ _ _, skpVx _, sknpVx _, ldVxDt _, ldVxK _, ldDtVx _, ldStVx _, addIVx _,
    ldFVx _, ldBVx _, ldMemIVx _, ldVxMemI _]

/-- The table follows the decoder: a decoded word is selected by the row of its instruction. -/
theorem rowOf_selects_of_decode {w : Word} {i : Instr} (hd : decode w = .instr i) :
    (rowOf i).selects w = true ∧ rowOf i ∈ opcodeRows := by
  obtain ⟨hi, rfl⟩ := encode_of_decode hd
  exact rowOf_selects_encode i hi

/-- Settles O3: decoder and table follow each other, and an undefined word keeps every bit. -/
theorem decodeFollowsTheOpcodeTable : Obligations.DecodeFollowsTheOpcodeTable := by
  unfold Obligations.DecodeFollowsTheOpcodeTable
  refine fun w => ⟨fun i => rowOf_selects_of_decode, fun u => undefinedWord_of_decode, fun hd r hr => ?_, fun hrows => ?_⟩
  · refine Bool.eq_false_iff.2 fun hsel => ?_
    have hrow := row_decode_of_selects hr hsel
    rw [hd] at hrow
    cases hrow
  · rcases hd : decode w with i | u
    · obtain ⟨hsel, hmem⟩ := rowOf_selects_of_decode hd
      exact absurd hsel (Bool.eq_false_iff.1 (hrows _ hmem))
    · rw [undefinedWord_of_decode hd]

/-- Settles O4: a word decodes to one thing, so the rows that select it are the one row of that. -/
theorem opcodePatternsAreDisjoint : Obligations.OpcodePatternsAreDisjoint := by
  unfold Obligations.OpcodePatternsAreDisjoint
  refine ⟨rfl, fun r1 hr1 r2 hr2 w h1 h2 => Option.some.inj ?_⟩
  exact (row_decode_of_selects hr1 h1).symm.trans (row_decode_of_selects hr2 h2)

end Sys2Proof

namespace Sys2Proof.Machine

/-! ### The step that fetches an undefined word -/

/-- Settles O42: the word the decoder answers is the word fetched, its two bytes big-endian. -/
theorem undefinedWordRaisesDecodeError : Obligations.UndefinedWordRaisesDecodeError := by
  unfold Obligations.UndefinedWordRaisesDecodeError
  intro w s h hpc hd
  refine ⟨?_, step_of_fetches_undefined h hpc hd⟩
  rw [undefinedWord_of_decode hd, wordOfBytes_toNat]

end Sys2Proof.Machine
end

section
/-! PROOFS. The end of a tick, ticks that begin waiting or halted, and a halted machine's steps
(spec/40_engine_cycle.md R90 to R99; spec/60_exceptions.md R207). -/

namespace Sys2Proof.Machine

/-! ### The end of a tick -/

/-- The pause latch stops the timers (R94). -/
theorem timerStep_of_wait {s : State} (hw : s.wait = true) : s.timerStep = s := by
  simp only [State.timerStep, hw, if_true]

theorem timerStep_of_not_wait {s : State} (hw : s.wait = false) :
    s.timerStep = { s with dt := countDown s.dt, st := countDown s.st } := by
  simp only [State.timerStep, hw, Bool.false_eq_true, if_false]

/-- All that a timer step can change is the two timers. -/
theorem timerStep_eq (s : State) : s.timerStep = { s with dt := s.timerStep.dt, st := s.timerStep.st } := by
  unfold State.timerStep
  split <;> rfl

/-- The request that the tone step issues (R95). -/
def State.toneRequest (s : State) : PortRequest := if 0 < s.st.toNat then .toneStart s.cfg.toneHz else .toneStop

/-- The tone step sets TONE by ST and issues that one request (R95). -/
theorem toneStep_eq (s : State) :
    s.toneStep = { s with tone := decide (0 < s.st.toNat), ports := s.toneRequest :: s.ports } := by
  by_cases hst : s.st = 0
  · have hzero : ¬ 0 < s.st.toNat := by bv_omega
    rw [State.toneStep, if_pos hst, State.toneRequest, if_neg hzero, decide_eq_false hzero]
    rfl
  · have hpos : 0 < s.st.toNat := by bv_omega
    rw [State.toneStep, if_neg hst, State.toneRequest, if_pos hpos, decide_eq_true hpos]
    rfl

/-- A tick ends with the timer step, one tone request by ST after it, and one flush (R90, R96). -/
theorem tickEnd_eq_of_timerStep (s : State) : s.tickEnd =
    { s.timerStep with
      tone := decide (0 < s.timerStep.st.toNat), ports := .dispFlush :: s.timerStep.toneRequest :: s.ports, slot := 0 } := by
  rw [State.tickEnd, toneStep_eq, timerStep_eq]
  rfl

/-- The end of a waiting tick is the tone request and the flush (R97). -/
theorem tickEnd_of_wait {s : State} (hw : s.wait = true) : s.tickEnd =
    { s with tone := decide (0 < s.st.toNat), ports := .dispFlush :: s.toneRequest :: s.ports, slot := 0 } := by
  rw [tickEnd_eq_of_timerStep, timerStep_of_wait hw]

theorem tickEnd_dt (s : State) : s.tickEnd.dt = s.timerStep.dt := by rw [tickEnd_eq_of_timerStep]

theorem tickEnd_st (s : State) : s.tickEnd.st = s.timerStep.st := by rw [tickEnd_eq_of_timerStep]

/-- The end of a waiting tick moves no timer (R94). -/
theorem tickEnd_timers_of_wait {s : State} (hw : s.wait = true) : s.tickEnd.dt = s.dt ∧ s.tickEnd.st = s.st := by
  rw [tickEnd_of_wait hw]
  exact ⟨rfl, rfl⟩

theorem tickEnd_tone (s : State) : s.tickEnd.tone = decide (0 < s.tickEnd.st.toNat) := by
  rw [tickEnd_st, tickEnd_eq_of_timerStep]

theorem tickEnd_ports (s : State) : s.tickEnd.ports =
    .dispFlush :: (if 0 < s.tickEnd.st.toNat then .toneStart s.cfg.toneHz else .toneStop) :: s.ports := by
  rw [tickEnd_st, tickEnd_eq_of_timerStep, State.toneRequest, timerStep_eq]

/-- Settles O52: the timers by the timer step, the tone and the requests by ST as that step leaves it. -/
theorem tickEndSteps : Obligations.TickEndSteps := by
  unfold Obligations.TickEndSteps
  refine fun s => ⟨fun hw => ?_, tickEnd_timers_of_wait, fun hst => ?_, fun hst => ?_, tickEnd_eq s⟩
  · rw [tickEnd_dt, tickEnd_st, timerStep_of_not_wait hw]
    exact ⟨countDown_toNat s.dt, countDown_toNat s.st⟩
  · rw [tickEnd_tone, tickEnd_ports, if_pos hst]
    exact ⟨decide_eq_true hst, rfl⟩
  · rw [tickEnd_tone, tickEnd_ports, if_neg hst.not_gt]
    exact ⟨decide_eq_false hst.not_gt, rfl⟩

/-! ### Idle slots -/

theorem slotStep_of_wait {s : State} (hw : s.wait = true) : slotStep s = .next s.idleSlot := by
  simp only [slotStep, hw, if_true]

/-- While the machine waits, a batch of any length uses its slots up and does nothing else (R91, R99). -/
theorem runSlots_of_wait {s : State} (hf : s.fault = none) (hw : s.wait = true) (k : Nat) :
    runSlots k s = .next { s with slot := s.slot + k } := by
  induction k generalizing s with
  | zero => rfl
  | succ k ih =>
    rw [runSlots_succ s k (slotStep_of_wait hw) hf, ih (s := s.idleSlot) hf hw, idleSlot_slot, Nat.add_right_comm]
    rfl

/-- Settles O33: Fx0A sets the latch, and with it set every later slot is idle. -/
theorem keyWaitStopsTheBatch : Obligations.KeyWaitStopsTheBatch := by
  unfold Obligations.KeyWaitStopsTheBatch
  refine fun x s => ⟨s.setWait x, rfl, rfl, fun hf k => ⟨_, runSlots_of_wait (s := s.setWait x) hf rfl k, rfl, ?_⟩⟩
  exact tickEnd_timers_of_wait (s := { s.setWait x with slot := s.slot + k }) rfl

/-! ### The tick -/

/-- `s` at the end of a batch of slots that a raise may have ended: the tick is over with the raise, and goes on to its
timer step otherwise (R90, R100). -/
def State.afterBatch (s : State) : State := if s.fault.isSome then s else s.tickEnd

theorem afterBatch_of_fault {s : State} (hf : s.fault ≠ none) : s.afterBatch = s :=
  if_pos (Option.isSome_iff_ne_none.2 hf)

theorem afterBatch_of_no_fault {s : State} (hf : s.fault = none) : s.afterBatch = s.tickEnd := by
  rw [State.afterBatch, hf]
  rfl

/-- A tick is its batch of slots and what follows the batch (R90). -/
theorem tick_of_runSlots {s t : State} (hf : s.fault = none) (ht : runSlots s.cfg.ipt s = .next t) :
    tick s = .next t.afterBatch := by
  simp only [tick, hf, ht, State.afterBatch]
  cases t.fault <;> rfl

/-- A tick that finds a fault latched does nothing (R98). -/
theorem tick_of_fault {s : State} (hf : s.fault ≠ none) : tick s = .next s :=
  if_pos (Option.isSome_iff_ne_none.2 hf)

/-- A tick of a waiting machine is an idle batch, then the tone request and the flush (R97). -/
theorem tick_of_wait {s : State} (hf : s.fault = none) (hw : s.wait = true) : tick s =
    .next { s with tone := decide (0 < s.st.toNat), ports := .dispFlush :: s.toneRequest :: s.ports, slot := 0 } :=
  calc tick s
    _ = .next (State.afterBatch { s with slot := s.slot + s.cfg.ipt }) := tick_of_runSlots hf (runSlots_of_wait hf hw _)
    _ = .next (State.tickEnd { s with slot := s.slot + s.cfg.ipt }) := congrArg _ (afterBatch_of_no_fault hf)
    _ = _ := congrArg _ (tickEnd_of_wait hw)

/-- Settles O54: the tick is idle but for its end, and the machine stood between ticks before it. -/
theorem waitingTickIsIdle : Obligations.WaitingTickIsIdle := by
  unfold Obligations.WaitingTickIsIdle
  intro s hf hw hslot
  rw [tick_of_wait hf hw, hslot]
  rfl

/-! ### The halted machine -/

/-- With a fault latched no tick is in progress (R100). -/
theorem betweenTicks_of_fault {s : State} (hf : s.fault ≠ none) : s.betweenTicks = true := by
  rw [State.betweenTicks, Option.isSome_iff_ne_none.2 hf, Bool.or_true]

/-- With a fault latched `KeyDown` delivers nothing: only the level changes (R98, R183). -/
theorem keyDown_of_fault {s : State} (hf : s.fault ≠ none) (k : Key) : s.keyDown k = s.setKey k true := by
  have hnone : (s.setKey k true).fault.isNone = false := Option.isNone_eq_false_iff.2 (Option.isSome_iff_ne_none.2 hf)
  simp only [State.keyDown, State.deliverKey, hnone, Bool.false_and, Bool.false_eq_true, if_false]

/-- Settles O45: each waiting transaction as one step, with the effect that it has on a latched fault. -/
theorem haltedMachineIsStuck : Obligations.HaltedMachineIsStuck := by
  unfold Obligations.HaltedMachineIsStuck
  intro s r rest bytes k hr
  have hf : s.fault ≠ none := by rw [hr]; exact Option.some_ne_none r
  have hb := betweenTicks_of_fault hf
  refine ⟨step_of_inbox_nil s hb, fun hi => ?_, fun hi => ?_, fun hi => ?_, fun hi => ?_, tick_of_fault hf, hr,
    load_of_fault hr bytes, keyDown_of_fault hf k, rfl⟩
  · exact (step_of_tick s hb hi).trans (tickStep_halted _ hf)
  · rw [step_of_transaction s hb hi nofun, State.transact, load_of_fault (s := { s with inbox := rest }) hr]
  · rw [step_of_transaction s hb hi nofun, State.transact, keyDown_of_fault (s := { s with inbox := rest }) hf]
    rfl
  · exact step_of_transaction s hb hi nofun

end Sys2Proof.Machine
end

section
/-! PROOFS. The tick of R90 as a run of the machine's steps (spec/40_engine_cycle.md R90, R98, R100, R101). -/

namespace Sys2Proof.Machine

/-! ### The place in the tick -/

/-- No instruction writes the parameters, and only a raise moves the place in the tick (R38, R100). -/
theorem Effect.cfg_slot {s t : State} {i : Instr} (heff : Effect s i t) :
    t.cfg = s.cfg ∧ (t.fault = none → t.slot = s.slot) := by
  cases heff with
  | raise e => exact ⟨rfl, nofun⟩
  | bcd x | store x => rw [memWriteList_eq]; exact ⟨rfl, fun _ => rfl⟩
  | draw x y n => rw [drawEffect_eq]; exact ⟨rfl, fun _ => rfl⟩
  | _ => exact ⟨rfl, fun _ => rfl⟩

/-- A slot that does not raise is one slot of the tick (R91). -/
theorem SlotEffect.cfg_slot {s t : State} (heff : SlotEffect s t) :
    t.cfg = s.cfg ∧ (t.fault = none → t.slot = s.slot + 1) := by
  cases heff with
  | idle => exact ⟨rfl, fun _ => rfl⟩
  | outOfBounds | undefinedWord => exact ⟨rfl, nofun⟩
  | instr i hw hpc hd heff => exact heff.cfg_slot

/-- With no fault latched and no slot left, a step of the tick is its end (R90). -/
theorem tickStep_of_end {s : State} (hf : s.fault = none) (hs : s.cfg.ipt ≤ s.slot) : tickStep s = .next s.tickEnd := by
  simp only [tickStep, hf, Option.isSome_none, Bool.false_eq_true, if_false, if_neg hs.not_gt]

theorem inTick_of_tick {s : State} {rest : List HostEvent} (h0 : s.slot = 0) (hi : s.inbox = .tick :: rest) :
    s.inTick = { s with inbox := rest } := by
  simp only [State.inTick, h0, hi, if_true, List.tail_cons]

theorem inTick_of_inside {s : State} (h0 : s.slot ≠ 0) : s.inTick = s := by
  simp only [State.inTick, h0, if_false]

/-- With a slot left, the step of a tick in progress or beginning is that slot (R90). -/
theorem step_of_slotStep {s t : State} (hf : s.fault = none) (htick : s.slot = 0 → s.inbox.head? = some .tick)
    (hs : s.slot < s.cfg.ipt) (h : slotStep s.inTick = .next t) : step s = .next t := by
  rw [step_of_inTick hf htick, tickStep_of_slot (s := s.inTick) hf hs, h]

/-- With none left it is the end of the tick (R90). -/
theorem step_of_end {s : State} (hf : s.fault = none) (htick : s.slot = 0 → s.inbox.head? = some .tick)
    (hs : s.cfg.ipt ≤ s.slot) : step s = .next s.inTick.tickEnd := by
  rw [step_of_inTick hf htick, tickStep_of_end (s := s.inTick) hf hs]

/-! ### Runs to the end of a tick -/

/-- A run is a shorter run, then the rest. -/
theorem core_run_add {s t : State} {k : Nat} (h : Sys2Proof.core.run k s = .next t) (m : Nat) :
    Sys2Proof.core.run (k + m) s = Sys2Proof.core.run m t := by
  induction k generalizing s with
  | zero =>
    cases h
    rw [Nat.zero_add]
  | succ k ih =>
    obtain ⟨u, hu, -⟩ := step_effect s
    rw [core_run_succ s k hu] at h
    rw [Nat.add_right_comm, core_run_succ s _ hu, ih h]

/-- From `s`, in a tick or about to begin one, one step or more and at most `n` lead to `u`, where the tick is over. -/
structure EndsTick (n : Nat) (s u : State) : Prop where
  steps   : ∃ k, 0 < k ∧ k ≤ n ∧ Sys2Proof.core.run k s = .next u
  between : u.betweenTicks = true
  inbox   : u.inbox = s.inTick.inbox

/-- The tick's last step. -/
theorem EndsTick.of_step {s u : State} (h : step s = .next u) (hb : u.betweenTicks = true)
    (hi : u.inbox = s.inTick.inbox) (n : Nat) : EndsTick (n + 1) s u where
  steps   := ⟨1, Nat.one_pos, Nat.le_add_left 1 n, core_run_succ s 0 h⟩
  between := hb
  inbox   := hi

/-- A step before it. -/
theorem EndsTick.step {n : Nat} {s t u : State} (hrest : EndsTick n t u) (h : step s = .next t)
    (hi : t.inTick.inbox = s.inTick.inbox) : EndsTick (n + 1) s u where
  steps   := by
    obtain ⟨k, -, hk, hrun⟩ := hrest.steps
    exact ⟨k + 1, Nat.succ_pos k, Nat.succ_le_succ hk, (core_run_succ s k h).trans hrun⟩
  between := hrest.between
  inbox   := hrest.inbox.trans hi

/-- In a tick with n slots left, the steps that follow are the batch of n slots, to its end or to a raise, and where none
raises one more step for the end of the tick. The induction is on the slots left. -/
theorem endsTick_runSlots {n : Nat} {s : State} (hf : s.fault = none) (htick : s.slot = 0 → s.inbox.head? = some .tick)
    (hn : s.slot + n = s.cfg.ipt) : ∃ t, runSlots n s.inTick = .next t ∧ EndsTick (n + 1) s t.afterBatch := by
  induction n generalizing s with
  | zero =>
    refine ⟨s.inTick, rfl, ?_⟩
    rw [afterBatch_of_no_fault (s := s.inTick) hf]
    exact .of_step (step_of_end hf htick hn.ge) (betweenTicks_of_slot rfl) (by rw [tickEnd_eq]) 0
  | succ n ih =>
    obtain ⟨t, hslot, heff⟩ := slotStep_effect s.inTick
    obtain ⟨hinbox, -⟩ := heff.inbox_keys
    have hstep : step s = .next t := step_of_slotStep hf htick (by omega) hslot
    by_cases hft : t.fault = none
    · obtain ⟨hcfg, hused⟩ := heff.cfg_slot
      have hplace : t.slot = s.slot + 1 := hused hft
      have hipt : t.cfg.ipt = s.cfg.ipt := congrArg Config.ipt hcfg
      have hinside : t.slot ≠ 0 := by omega
      obtain ⟨u, hbatch, hends⟩ := ih hft (fun h0 => absurd h0 hinside) (by omega)
      rw [inTick_of_inside hinside] at hbatch
      exact ⟨u, (runSlots_succ _ n hslot hft).trans hbatch, hends.step hstep (by rw [inTick_of_inside hinside, hinbox])⟩
    · refine ⟨t, runSlots_succ_fault _ n hslot hft, ?_⟩
      rw [afterBatch_of_fault hft]
      exact .of_step hstep (betweenTicks_of_fault hft) hinbox _

/-- A `Tick` between ticks, a fault latched or not: its steps lead to what the tick answers. -/
theorem endsTick_tick {s : State} {rest : List HostEvent} (h0 : s.slot = 0) (hi : s.inbox = .tick :: rest) :
    ∃ u, tick s.inTick = .next u ∧ EndsTick (s.cfg.ipt + 1) s u := by
  by_cases hf : s.fault = none
  · obtain ⟨t, hbatch, hends⟩ :=
      endsTick_runSlots (n := s.cfg.ipt) hf (fun _ => by rw [hi]; rfl) (by rw [h0, Nat.zero_add])
    exact ⟨t.afterBatch, tick_of_runSlots (s := s.inTick) hf hbatch, hends⟩
  · have hstep : step s = .next s.inTick := by
      rw [step_of_tick s (betweenTicks_of_slot h0) hi, inTick_of_tick h0 hi]
      exact tickStep_halted _ hf
    exact ⟨s.inTick, tick_of_fault (s := s.inTick) hf, .of_step hstep (betweenTicks_of_fault hf) rfl _⟩

/-- Settles O55: the steps lead to what the tick answers, where with none waiting further steps change nothing. -/
theorem tickIsItsSteps : Obligations.TickIsItsSteps := by
  unfold Obligations.TickIsItsSteps
  intro s rest h0 hi
  obtain ⟨u, htick, hends⟩ := endsTick_tick h0 hi
  obtain ⟨k, hpos, hle, hrun⟩ := hends.steps
  have hinbox := hends.inbox
  rw [inTick_of_tick h0 hi] at htick hinbox
  rw [htick]
  refine ⟨⟨k, hpos, hle, hrun⟩, fun hrest => ?_⟩
  rw [← Nat.add_sub_of_le hle, core_run_add hrun]
  exact run_of_inbox_nil u hends.between (hinbox.trans hrest) _

end Sys2Proof.Machine
end

section
/-! PROOFS. Jumps, calls, returns and the register skips (spec/41_control_flow.md R110 to R117). -/

namespace Sys2Proof.Machine

/-! ### Jumps -/

/-- An address immediate is zero-extended (R73). -/
theorem addrOf_toNat (nnn : BitVec 12) : (addrOf nnn).toNat = nnn.toNat :=
  BitVec.toNat_setWidth_of_le (by decide)

/-- A register value is zero-extended (R8). -/
theorem widen_toNat (b : Byte) : (widen b).toNat = b.toNat :=
  BitVec.toNat_setWidth_of_le (by decide)

/-- The reduction modulo 65536 of Bnnn never acts: the sum is at most 0x10FE (R113). -/
theorem addrOf_add_widen_toNat (nnn : BitVec 12) (b : Byte) : (addrOf nnn + widen b).toNat = nnn.toNat + b.toNat := by
  rw [BitVec.toNat_add, addrOf_toNat, widen_toNat]
  omega

/-- Settles O6: both jumps set PC alone, to a target that the 16 bits hold whole. -/
theorem jumpsSetPc : Obligations.JumpsSetPc := by
  unfold Obligations.JumpsSetPc
  intro nnn s
  exact ⟨⟨s.setPc (addrOf nnn), rfl, addrOf_toNat nnn, rfl⟩,
    ⟨s.setPc (addrOf nnn + widen (s.readV 0)), rfl, addrOf_add_widen_toNat nnn _, rfl⟩⟩

/-! ### Calls -/

/-- The stack is full exactly when its length is the capacity (R25). -/
theorem stackFull_iff {s : State} : s.stackFull = true ↔ s.cfg.stackDepth = some s.stack.length := by
  unfold State.stackFull
  split
  case h_1 d hd => simp [hd, eq_comm]
  case h_2 hd => simp [hd]

/-- A call on a full stack raises and pushes nothing (R112). -/
theorem exec_callNnn_of_full {s : State} (h : s.stackFull = true) (nnn : BitVec 12) :
    exec (.callNnn nnn) s = .next (s.afterFault .stackOverflow) := by
  simp only [exec, execCallNnn, h, if_true]
  rfl

/-- Settles O7: the two cases of a call are those of `State.stackFull`. -/
theorem callPushesPcOrOverflows : Obligations.CallPushesPcOrOverflows := by
  unfold Obligations.CallPushesPcOrOverflows
  intro nnn s
  constructor
  · intro hfull
    exact exec_callNnn_of_full (stackFull_iff.2 hfull) nnn
  · intro hroom
    have hnot : s.stackFull = false := Bool.eq_false_iff.2 (mt stackFull_iff.1 hroom)
    exact ⟨_, exec_callNnn_of_room hnot nnn, addrOf_toNat nnn, rfl, rfl⟩

/-! ### Returns -/

/-- RET is the one word 0x00EE, since the decoder drops no bit of a word (R74). -/
theorem decode_eq_ret_iff {w : Word} : decode w = .instr .ret ↔ w = 0x00EE := by
  constructor
  · intro hd
    exact (encode_of_decode hd).2.symm
  · rintro rfl
    exact decode_encode (i := .ret) rfl

/-- A return on an empty stack raises (R110). -/
theorem exec_ret_of_nil {s : State} (h : s.stack = []) : exec .ret s = .next (s.afterFault .stackUnderflow) := by
  simp only [exec, execRet, h]
  rfl

/-- Otherwise it takes the last pushed address off the stack (R110). -/
theorem exec_ret_of_cons {s : State} {w : Word} {rest : List Word} (h : s.stack = w :: rest) :
    exec .ret s = .next { s with pc := w, stack := rest } := by
  simp only [exec, execRet, h]

/-- Settles O8: the word of RET, and the two shapes of the stack. -/
theorem returnPopsPcOrUnderflows : Obligations.ReturnPopsPcOrUnderflows := by
  unfold Obligations.ReturnPopsPcOrUnderflows
  exact ⟨fun _ => decode_eq_ret_iff, fun _ => ⟨exec_ret_of_nil, fun _ _ => exec_ret_of_cons⟩⟩

/-! ### Skips -/

section
variable (s : State) (p : Prop) [Decidable p]

/-- A skip under a condition moves PC alone (R114). -/
theorem skipIf_decide : s.skipIf (decide p) = { s with pc := if p then s.pc + 2 else s.pc } := by
  rw [skipIf_eq_setPc]
  simp only [decide_eq_true_eq, State.setPc]

/-- So does a skip under the negated condition (R115). -/
theorem skipIf_decide_not : s.skipIf (decide ¬p) = { s with pc := if p then s.pc else s.pc + 2 } := by
  rw [skipIf_decide, ite_not]

end

/-- Settles O9: each skip under its condition on Vx and kk. -/
theorem immediateSkips : Obligations.ImmediateSkips := by
  unfold Obligations.ImmediateSkips
  intro x kk s
  exact ⟨congrArg _ (skipIf_decide s (s.readV x = kk)), congrArg _ (skipIf_decide_not s (s.readV x = kk))⟩

/-- Top nibbles 5 and 9 with a low nibble other than 0 select no row (R76, R116, R117). -/
theorem decode_of_lowNibble_ne_zero {w : Word} (hop : fieldOp w = 5 ∨ fieldOp w = 9) (hn : fieldN w ≠ 0) :
    decode w = .undefinedWord w := by
  rcases hop with h5 | h9
  · simp only [decode, h5, hn, if_false]
  · simp only [decode, h9, hn, if_false]

/-- Settles O10: the low nibbles that the decoder refuses, and each skip under its condition on Vx and Vy. -/
theorem registerSkips : Obligations.RegisterSkips := by
  unfold Obligations.RegisterSkips
  refine ⟨fun _ => decode_of_lowNibble_ne_zero, fun x y s => ?_⟩
  exact ⟨congrArg _ (skipIf_decide s (s.readV x = s.readV y)), congrArg _ (skipIf_decide_not s (s.readV x = s.readV y))⟩

end Sys2Proof.Machine
end

section
/-! PROOFS. Register loads, the ALU operations and the results of the random draw (spec/42_alu.md R130 to R143). -/

namespace Sys2Proof.Machine

/-! ### The results of the random draw -/

/-- A draw that is not 0xFF is at most 254. -/
theorem byte_toNat_le_iff {r : Byte} : r.toNat ≤ 254 ↔ r ≠ 0xFF := by
  rw [ne_eq, BitVec.toNat_eq, show (0xFF : Byte).toNat = 255 from rfl]
  omega

/-- Settles O19: a result is a submask of kk, and a submask other than 0xFF is the result of the draw equal to it. -/
theorem randomResultsAreTheSubmasks : Obligations.RandomResultsAreTheSubmasks := by
  unfold Obligations.RandomResultsAreTheSubmasks
  intro x kk m s
  simp only [readV_rndWith, byte_toNat_le_iff]
  have hones : ∀ b : Byte, 0xFF &&& b = b := fun _ => BitVec.allOnes_and
  constructor
  · rintro ⟨r, hr, rfl⟩
    refine ⟨by rw [BitVec.and_assoc, BitVec.and_self], ?_⟩
    rintro ⟨rfl, hm⟩
    rw [BitVec.and_comm, hones] at hm
    exact hr hm
  · rintro ⟨hsub, hnot⟩
    refine ⟨m, ?_, hsub⟩
    rintro rfl
    rw [hones] at hsub
    exact hnot ⟨hsub, rfl⟩

/-! ### One register written, no flag -/

/-- An instruction whose effect is one register write: the new value, and the frame. -/
theorem exists_next_of_exec_writeV {i : Instr} {s : State} {x : Reg} {b : Byte} (h : exec i s = .next (s.writeV x b)) :
    ∃ t, exec i s = .next t ∧ t.readV x = b ∧ regsKept s t [x] ∧ onlyRegs s t :=
  ⟨_, h, readV_writeV_self .., (regsKept_refl s _).writeV (List.mem_singleton.2 rfl) _, writeV_eq ..⟩

/-- Settles O11: each of the three is one write of Vx. -/
theorem loadsAndImmediateAdd : Obligations.LoadsAndImmediateAdd := by
  unfold Obligations.LoadsAndImmediateAdd
  intro x y kk s
  refine ⟨exists_next_of_exec_writeV rfl, ?_, exists_next_of_exec_writeV rfl⟩
  obtain ⟨t, hexec, hsum, hkept, honly⟩ :=
    exists_next_of_exec_writeV (show exec (.addVxKk x kk) s = .next (s.writeV x (s.readV x + kk)) from rfl)
  exact ⟨t, hexec, by rw [hsum, BitVec.toNat_add], hkept, honly⟩

/-- Settles O12: each of the three is one write of Vx. -/
theorem bitwiseOperations : Obligations.BitwiseOperations := by
  unfold Obligations.BitwiseOperations
  intro x y s
  exact ⟨exists_next_of_exec_writeV rfl, exists_next_of_exec_writeV rfl, exists_next_of_exec_writeV rfl⟩

/-! ### Vx and the flag written

8xy4 writes Vx and then VF; the others write VF first, and read their operands from the state with the flag in it (R143). -/

section
variable {s : State} {x x' : Reg}

/-- Two register writes change no other register. -/
theorem regsKept_writeV_writeV {b b' : Byte} {l : List Reg} (hx : x ∈ l) (hx' : x' ∈ l) :
    regsKept s ((s.writeV x b).writeV x' b') l :=
  ((regsKept_refl s _).writeV hx _).writeV hx' _

/-- Two register writes change nothing outside the registers. -/
theorem onlyRegs_writeV_writeV {b b' : Byte} : onlyRegs s ((s.writeV x b).writeV x' b') := rfl

/-- The first of two writes stands where the second is to another register. -/
theorem readV_writeV_writeV_ne (h : x ≠ x') (b b' : Byte) : ((s.writeV x b).writeV x' b').readV x = b := by
  rw [readV_writeV_ne _ h, readV_writeV_self]

/-- VF stands in the list of registers that the flag-writing instructions may change. -/
theorem regF_mem_pair : regF ∈ [x, regF] := List.mem_cons_of_mem _ (List.mem_singleton.2 rfl)

end

/-- Settles O13: the flag is written last, over the sum where x is F. -/
theorem addClearsFlag : Obligations.AddClearsFlag := by
  unfold Obligations.AddClearsFlag
  intro x y s
  refine ⟨(s.writeV x (s.readV x + s.readV y)).writeV regF flagAdd, rfl, readV_writeV_self .., ?_,
    regsKept_writeV_writeV List.mem_cons_self regF_mem_pair, onlyRegs_writeV_writeV⟩
  intro hx
  rw [readV_writeV_writeV_ne hx, BitVec.toNat_add]

/-! ### Subtraction -/

/-- The flag of a subtraction as a number (R10, R137, R139). -/
theorem flagGreater_toNat (a b : Byte) : (flagGreater a b).toNat = if b.toNat < a.toNat then 1 else 0 := by
  unfold flagGreater flagBit
  by_cases h : b.toNat < a.toNat <;> simp [h]

/-- Byte subtraction wraps modulo 256 (R142). -/
theorem byte_sub_toNat (a b : Byte) : (a - b).toNat = (a.toNat + 256 - b.toNat) % 256 := by
  rw [BitVec.toNat_sub]
  omega

/-- The flag, then the difference of what the registers `p` and `q` then hold: the results of the statements on 8xy5
and 8xy7, for any registers. -/
theorem subResults_flag_sub (s : State) (x p q : Reg) (f : Byte) :
    subResults x p q (s.readV p).toNat (s.readV q).toNat f.toNat
      ((s.writeV regF f).writeV x ((s.writeV regF f).readV p - (s.writeV regF f).readV q)) := by
  unfold subResults
  simp only [readV_writeV_self, byte_sub_toNat]
  refine ⟨fun hx => ?_, fun hp hq => ?_, fun hp hq => ?_, fun hp hq => ?_, fun hp hq => ?_⟩
  · rw [readV_writeV_writeV_ne hx.symm]
  · rw [readV_writeV_ne s hp, readV_writeV_ne s hq]
  · rw [hp, readV_writeV_self, readV_writeV_ne s hq]
  · rw [hq, readV_writeV_self, readV_writeV_ne s hp]
  · rw [hp, hq, Nat.add_sub_cancel_left]

/-- Settles O14: the flag, then Vx less Vy. -/
theorem subtractWithFlag : Obligations.SubtractWithFlag := by
  unfold Obligations.SubtractWithFlag
  intro x y s
  rw [← flagGreater_toNat]
  exact ⟨_, rfl, subResults_flag_sub s x x y _,
    regsKept_writeV_writeV regF_mem_pair List.mem_cons_self, onlyRegs_writeV_writeV⟩

/-- Settles O15: the flag, then Vy less Vx. -/
theorem reverseSubtractWithFlag : Obligations.ReverseSubtractWithFlag := by
  unfold Obligations.ReverseSubtractWithFlag
  intro x y s
  rw [← flagGreater_toNat]
  exact ⟨_, rfl, subResults_flag_sub s x y x _,
    regsKept_writeV_writeV regF_mem_pair List.mem_cons_self, onlyRegs_writeV_writeV⟩

/-! ### Shifts -/

/-- The flag of 8xy6 is the remainder by 2 (R138). -/
theorem flagLowBit_toNat (a : Byte) : (flagLowBit a).toNat = a.toNat % 2 := by
  rw [flagLowBit, BitVec.toNat_and, ← Nat.and_one_is_mod]
  rfl

/-- The logical shift right is the half (R138). -/
theorem byte_shiftRight_one_toNat (a : Byte) : (a >>> 1).toNat = a.toNat / 2 := by
  rw [BitVec.toNat_ushiftRight, Nat.shiftRight_eq_div_pow, pow_one]

/-- 8Fy6 shifts the flag, a single low bit, out (R138, R143). -/
theorem flagLowBit_shiftRight_one (a : Byte) : flagLowBit a >>> 1 = 0 := by
  rw [BitVec.toNat_eq, byte_shiftRight_one_toNat, flagLowBit_toNat]
  exact Nat.div_eq_of_lt (Nat.mod_lt _ two_pos)

/-- The flag of 8xyE is the raw bit 7 (R140). -/
theorem flagHighBit_eq (a : Byte) : flagHighBit a = if 128 ≤ a.toNat then 0x80 else 0 := by
  have hbit : a.getLsbD 7 = decide (128 ≤ a.toNat) := BitVec.msb_eq_decide a
  rw [flagHighBit, show (0x80 : Byte) = BitVec.twoPow 8 7 from rfl, BitVec.and_twoPow, hbit]
  exact if_congr decide_eq_true_iff rfl rfl

/-- The shift left doubles modulo 256 (R140). -/
theorem byte_shiftLeft_one_toNat (a : Byte) : (a <<< 1).toNat = a.toNat * 2 % 256 := by
  rw [BitVec.toNat_shiftLeft, Nat.shiftLeft_eq, pow_one]

/-- 8FyE shifts the flag, a single high bit, out (R140, R143). -/
theorem flagHighBit_shiftLeft_one (a : Byte) : flagHighBit a <<< 1 = 0 := by
  rw [flagHighBit_eq]
  split <;> rfl

/-- Settles O16: the flag, then the half of what Vx then holds. -/
theorem shiftRightWithFlag : Obligations.ShiftRightWithFlag := by
  unfold Obligations.ShiftRightWithFlag
  intro x y s
  refine ⟨_, rfl, fun hx => ⟨?_, ?_⟩, ?_,
    regsKept_writeV_writeV regF_mem_pair List.mem_cons_self, onlyRegs_writeV_writeV, fun _ => rfl⟩
  · rw [readV_writeV_writeV_ne hx.symm, flagLowBit_toNat]
  · rw [readV_writeV_self, readV_writeV_ne s hx, byte_shiftRight_one_toNat]
  · rintro rfl
    rw [readV_writeV_self, readV_writeV_self, flagLowBit_shiftRight_one]

/-- Settles O17: the flag, then the double of what Vx then holds. -/
theorem shiftLeftWithFlag : Obligations.ShiftLeftWithFlag := by
  unfold Obligations.ShiftLeftWithFlag
  intro x y s
  refine ⟨_, rfl, fun hx => ⟨?_, ?_⟩, ?_,
    regsKept_writeV_writeV regF_mem_pair List.mem_cons_self, onlyRegs_writeV_writeV, fun _ => rfl⟩
  · rw [readV_writeV_writeV_ne hx.symm, flagHighBit_eq]
  · rw [readV_writeV_self, readV_writeV_ne s hx, byte_shiftLeft_one_toNat]
  · rintro rfl
    rw [readV_writeV_self, readV_writeV_self, flagHighBit_shiftLeft_one]

end Sys2Proof.Machine
end

section
/-! PROOFS. The address register and the memory transfers Fx33, Fx55, Fx65 (spec/43_index_memory.md R150 to R156). -/

namespace Sys2Proof.Machine

/-! ### The bounds check -/

/-- An access to n + 1 bytes whose last one lies outside memory fails with the lowest such address (R156). -/
theorem spanFault_of_le {base n : Nat} (h : 4096 ≤ base + n) : spanFault base (n + 1) = some (max base 4096) :=
  (spanFault_eq_some ..).2 ⟨⟨n.succ_pos, Nat.lt_succ_of_le h⟩, rfl⟩

/-- With its last byte in memory the access passes (R156). -/
theorem spanFault_of_lt {base n : Nat} (h : base + n < 4096) : spanFault base (n + 1) = none :=
  (spanFault_eq_none ..).2 (.inr h)

section
variable {x : Reg} {s : State}

/-- Fx33 past the end of memory raises and writes nothing (R153). -/
theorem exec_ldBVx_of_le (h : 4096 ≤ s.iReg.toNat + 2) :
    exec (.ldBVx x) s = .next (s.afterFault (.memoryOutOfBounds (max s.iReg.toNat 4096))) := by
  have hspan : spanFault s.base 3 = some (max s.iReg.toNat 4096) := spanFault_of_le h
  simp only [exec, execLdBVx, hspan]
  rfl

/-- Within memory it stores the digits of Vx at I (R153). -/
theorem exec_ldBVx_of_lt (h : s.iReg.toNat + 2 < 4096) :
    exec (.ldBVx x) s = .next (s.memWriteList s.iReg.toNat (bcdDigits (s.readV x))) := by
  have hspan : spanFault s.base 3 = none := spanFault_of_lt h
  simp only [exec, execLdBVx, hspan]
  rfl

/-- Fx55 past the end of memory raises and writes nothing (R154). -/
theorem exec_ldMemIVx_of_le (h : 4096 ≤ s.iReg.toNat + x.val) :
    exec (.ldMemIVx x) s = .next (s.afterFault (.memoryOutOfBounds (max s.iReg.toNat 4096))) := by
  have hspan : spanFault s.base (x.val + 1) = some (max s.iReg.toNat 4096) := spanFault_of_le h
  simp only [exec, execLdMemIVx, hspan]
  rfl

/-- Fx65 past the end of memory raises and loads nothing (R155). -/
theorem exec_ldVxMemI_of_le (h : 4096 ≤ s.iReg.toNat + x.val) :
    exec (.ldVxMemI x) s = .next (s.afterFault (.memoryOutOfBounds (max s.iReg.toNat 4096))) := by
  have hspan : spanFault s.base (x.val + 1) = some (max s.iReg.toNat 4096) := spanFault_of_le h
  simp only [exec, execLdVxMemI, hspan]
  rfl

/-- Within memory it loads V0 to Vx from I upwards (R155). -/
theorem exec_ldVxMemI_of_lt (h : s.iReg.toNat + x.val < 4096) :
    exec (.ldVxMemI x) s = .next (s.loadRegs s.iReg.toNat (x.val + 1)) := by
  have hspan : spanFault s.base (x.val + 1) = none := spanFault_of_lt h
  simp only [exec, execLdVxMemI, hspan]
  rfl

end

/-! ### Fx55 and Fx65 together -/

section
variable (s : State) (a : Nat) (bs : List Byte)

/-- Byte writes leave I as it is. -/
@[simp] theorem memWriteList_iReg : (s.memWriteList a bs).iReg = s.iReg := by rw [memWriteList_eq]

/-- Byte writes leave every register as it is. -/
@[simp] theorem readV_memWriteList (r : Reg) : (s.memWriteList a bs).readV r = s.readV r := by
  rw [memWriteList_eq]
  rfl

end

/-- Registers that stand in memory already are loaded with what they hold. -/
theorem loadRegs_eq_self {s : State} {a k : Nat} (h : ∀ r : Reg, r.val < k → s.memRead (a + r.val) = s.readV r) :
    s.loadRegs a k = s := by
  have hv : (s.loadRegs a k).v = s.v := by
    refine v_ext fun r => ?_
    rw [readV_loadRegs]
    split
    · exact h r ‹_›
    · rfl
  rw [loadRegs_eq, hv]

/-- Settles O24: what Fx55 stored is what the registers still hold when Fx65 loads it. -/
theorem storeThenLoadRoundTrips : Obligations.StoreThenLoadRoundTrips := by
  unfold Obligations.StoreThenLoadRoundTrips
  intro x s h
  refine ⟨_, exec_ldMemIVx_of_lt h, ?_, readV_memWriteList s _ _⟩
  rw [exec_ldVxMemI_of_lt (by rwa [memWriteList_iReg]), memWriteList_iReg, loadRegs_eq_self]
  intro r hr
  rw [memRead_memWriteList_regsBelow s _ x.isLt hr, readV_memWriteList]

/-! ### The address register -/

/-- Five times a byte fits in the address register (R152). -/
theorem widen_mul_five_toNat (b : Byte) : (widen b * 5).toNat = b.toNat * 5 := by
  have hfive : (5 : Word).toNat = 5 := rfl
  rw [BitVec.toNat_mul, widen_toNat, hfive]
  omega

/-- Settles O20: each of the three sets I alone, to a zero-extended operand, a sum in 16 bits, or an exact product. -/
theorem addressRegisterOperations : Obligations.AddressRegisterOperations := by
  unfold Obligations.AddressRegisterOperations
  intro nnn x s
  refine ⟨⟨s.setI (addrOf nnn), rfl, addrOf_toNat nnn, rfl⟩, ⟨s.setI (s.iReg + widen (s.readV x)), rfl, ?_, rfl⟩,
    ⟨s.setI (widen (s.readV x) * 5), rfl, widen_mul_five_toNat _, rfl⟩⟩
  rw [setI_iReg, BitVec.toNat_add, widen_toNat]

/-! ### Fx33 -/

/-- A decimal digit fits in a byte. -/
theorem byte_ofNat_digit_toNat {d : Nat} (h : d < 10) : (BitVec.ofNat 8 d : Byte).toNat = d := by
  rw [BitVec.toNat_ofNat]
  omega

/-- The stored bytes are the digits as numbers: none is reduced modulo 256 (R153). -/
theorem bcdDigits_toNat (b : Byte) :
    (bcdDigits b).map BitVec.toNat = [b.toNat / 100, b.toNat / 10 % 10, b.toNat % 10] := by
  have hhundreds : b.toNat / 100 < 10 := by omega
  simp only [bcdDigits, List.map_cons, List.map_nil, byte_ofNat_digit_toNat hhundreds,
    byte_ofNat_digit_toNat (Nat.mod_lt _ (Nat.succ_pos 9))]

/-- Each digit stands at its place (R153). -/
theorem memRead_memWriteList_bcdDigits (s : State) (a : Nat) (b : Byte) (j : Nat) {d : Nat}
    (h : [b.toNat / 100, b.toNat / 10 % 10, b.toNat % 10][j]? = some d) :
    ((s.memWriteList a (bcdDigits b)).memRead (a + j)).toNat = d := by
  rw [← bcdDigits_toNat, List.getElem?_map, Option.map_eq_some_iff] at h
  obtain ⟨c, hc, rfl⟩ := h
  obtain ⟨hj, rfl⟩ := List.getElem?_eq_some_iff.1 hc
  rw [memRead_memWriteList_add s a _ hj]

/-- Settles O21: the bounds check at I + 2, then a list of three bytes written at I. -/
theorem bcdStoresThreeDigits : Obligations.BcdStoresThreeDigits := by
  unfold Obligations.BcdStoresThreeDigits
  refine fun x s => ⟨exec_ldBVx_of_le, fun h => ⟨_, exec_ldBVx_of_lt h, ?_, ?_, ?_,
    bytesKept_memWriteList s _ _, memWriteList_eq ..⟩⟩
  · exact memRead_memWriteList_bcdDigits s _ _ 0 rfl
  · exact memRead_memWriteList_bcdDigits s _ _ 1 rfl
  · exact memRead_memWriteList_bcdDigits s _ _ 2 rfl

/-! ### Fx55 and Fx65 alone -/

/-- Settles O22: the bounds check at I + x, then V0 to Vx written at I as one list of bytes. -/
theorem registerStore : Obligations.RegisterStore := by
  unfold Obligations.RegisterStore
  refine fun x s => ⟨exec_ldMemIVx_of_le,
    fun h => ⟨_, exec_ldMemIVx_of_lt h, fun j hj => ?_, ?_, memWriteList_eq ..⟩⟩
  · exact memRead_memWriteList_regsBelow s _ x.isLt (Nat.lt_succ_of_le hj)
  · have hkept := bytesKept_memWriteList s s.iReg.toNat (s.regsBelow (x.val + 1))
    rwa [regsBelow_length s _ x.isLt] at hkept

/-- Settles O23: the bounds check at I + x, then the registers from V0 to Vx loaded one by one. -/
theorem registerLoad : Obligations.RegisterLoad := by
  unfold Obligations.RegisterLoad
  refine fun x s => ⟨exec_ldVxMemI_of_le,
    fun h => ⟨_, exec_ldVxMemI_of_lt h, fun j hj => ?_, fun j hj => ?_, loadRegs_eq ..⟩⟩
  · rw [readV_loadRegs, if_pos (Nat.lt_succ_of_le hj)]
  · rw [readV_loadRegs, if_neg (Nat.not_lt.2 hj)]

end Sys2Proof.Machine
end

section
/-! PROOFS. The display: the coordinate correction, 00E0 and Dxyn (spec/44_display.md R165 to R170). -/

namespace Sys2Proof.Machine

/-! ### The coordinate correction -/

/-- Up to the dimension a coordinate is left as it is (R167). -/
theorem corr_of_le {c d : Nat} (h : c ≤ d) : corr c d = c := if_neg (Nat.not_lt.2 h)

/-- Above it the dimension is subtracted once (R167). -/
theorem corr_add_of_lt {c d : Nat} (h : d < c) : corr c d + d = c := by
  rw [corr, if_pos h, Nat.sub_add_cancel h.le]

/-- A corrected coordinate is below the dimension unless the raw one is the dimension itself, or twice it or more (R167). -/
theorem corr_lt_iff {c d : Nat} : corr c d < d ↔ c < d ∨ d < c ∧ c < 2 * d := by
  rcases le_or_gt c d with hc | hc
  · have := corr_of_le hc
    omega
  · have := corr_add_of_lt hc
    omega

/-- A corrected 0 is no subtraction's result, since the dimension itself is not corrected (R167). -/
theorem corr_eq_zero {c d : Nat} (h : corr c d = 0) : c = 0 := by
  rcases le_or_gt c d with hc | hc
  · rwa [corr_of_le hc] at h
  · have := corr_add_of_lt hc
    omega

/-- Settles O30: the correction leaves the dimension itself, and twice it, off the grid. -/
theorem coordinateCorrection : Obligations.CoordinateCorrection := by
  unfold Obligations.CoordinateCorrection
  refine ⟨fun _ => ⟨corr_of_le, corr_add_of_lt⟩, fun _ => ⟨corr_of_le, corr_add_of_lt⟩, fun px py => ?_,
    fun _ _ _ => ⟨corr_eq_zero, corr_eq_zero⟩⟩
  simp only [inGrid, Config.cols, Config.rows, Bool.and_eq_true, decide_eq_true_eq, corr_lt_iff]
  omega

/-! ### 00E0 -/

/-- A well-formed instruction is decoded from its encoding and from no other word (R74). -/
theorem decode_eq_instr_iff {i : Instr} (hi : i.wellFormed = true) {w : Word} : decode w = .instr i ↔ w = encode i := by
  constructor
  · intro hd
    exact (encode_of_decode hd).2.symm
  · rintro rfl
    exact decode_encode hi

/-- Settles O27: CLS is one `DispClear`. -/
theorem clearUnsetsEveryCell : Obligations.ClearUnsetsEveryCell := by
  unfold Obligations.ClearUnsetsEveryCell
  exact ⟨fun _ => decode_eq_instr_iff (i := .cls) rfl, fun s => ⟨s.dispClear, rfl, cell_replicate, rfl, rfl⟩⟩

/-! ### The positions of a sprite -/

section
variable {s : State} {x y : Reg} {n : Nat}

/-- The positions of a sprite cover its cells (R166, R167). -/
theorem exists_mem_drawCells_iff {qx qy : Nat} :
    (∃ p ∈ s.drawCells x y n, corr p.1 64 = qx ∧ corr p.2 32 = qy) ↔ s.spriteCovers x y n qx qy := by
  constructor
  · rintro ⟨p, hp, hcell⟩
    obtain ⟨r, c, hr, hc, hbit, rfl⟩ := (mem_drawCells ..).1 hp
    exact ⟨r, c, hr, hc, hbit, hcell⟩
  · rintro ⟨r, c, hr, hc, hbit, hcell⟩
    exact ⟨_, (mem_drawCells ..).2 ⟨r, c, hr, hc, hbit, rfl⟩, hcell⟩

/-- A sprite fits when each of its positions does (R169). -/
theorem inGrid_of_mem_drawCells (hfits : s.spriteFits x y n) : ∀ p ∈ s.drawCells x y n, inGrid p.1 p.2 = true := by
  intro p hp
  obtain ⟨r, c, hr, hc, hbit, rfl⟩ := (mem_drawCells ..).1 hp
  exact hfits r hr c hc hbit

/-- The positions of a sprite of at most 32 rows are distinct once corrected: they span fewer columns and rows than the
grid has. -/
theorem drawCells_pairwise_corr (hn : n ≤ 32) :
    (s.drawCells x y n).Pairwise fun p q => ¬(corr p.1 64 = corr q.1 64 ∧ corr p.2 32 = corr q.2 32) := by
  refine List.Pairwise.imp_of_mem ?_ (spriteCells_pairwise ..)
  rintro p q hp hq horder ⟨hcol, hrow⟩
  obtain ⟨r, c, hr, hc, -, rfl⟩ := (mem_drawCells ..).1 hp
  obtain ⟨r', c', hr', hc', -, rfl⟩ := (mem_drawCells ..).1 hq
  have hx := corr_injective hcol (by omega) (by omega)
  have hy := corr_injective hrow (by omega) (by omega)
  simp only at horder
  omega

/-- The requests of a sprite, one for each of its positions in order (R166, R168). -/
theorem spriteRequests_eq_map : s.spriteRequests x y n = (s.drawCells x y n).map fun p =>
    PortRequest.dispToggle p.1 p.2 (s.disp.cell (corr p.1 64) (corr p.2 32)) := by
  simp only [State.spriteRequests, State.drawCells, spriteCells_memReadList, rowCells, List.map_flatMap, List.map_filterMap,
    apply_ite (Option.map _), Option.map_some, Option.map_none]

/-- Where the checks of Dxyn pass, it has its effects (R166). -/
theorem exec_drwVxVyN_of_fits (hmem : n = 0 ∨ s.iReg.toNat + n ≤ 4096) (hfits : s.spriteFits x y n) :
    exec (.drwVxVyN x y n) s = .next (s.drawEffect x y n) := by
  have hspan : spanFault s.base n = none := (spanFault_eq_none ..).2 hmem
  have hgrid : firstOffGrid (s.drawCells x y n) = none := (firstOffGrid_eq_none _).2 (inGrid_of_mem_drawCells hfits)
  simp only [exec, execDrwVxVyN, State.drawError, hspan, hgrid]

end

/-! ### The collision -/

/-- A toggle leaves the answer at a position that is another cell once corrected (R168). -/
theorem toggleAnswer_dispToggle_of_ne {s : State} {p q : Nat × Nat}
    (h : ¬(corr p.1 64 = corr q.1 64 ∧ corr p.2 32 = corr q.2 32)) :
    (s.dispToggle p.1 p.2).toggleAnswer q.1 q.2 = s.toggleAnswer q.1 q.2 := by
  simp only [State.toggleAnswer, dispToggle_disp, cell_flip]
  exact if_neg fun hq => h ⟨hq.1.symm, hq.2.1.symm⟩

/-- A run of toggles whose positions are distinct once corrected collides exactly where the display at the start has one
of its cells set (R166, R168). -/
theorem collides_iff {ps : List (Nat × Nat)} {s : State}
    (hd : ps.Pairwise fun p q => ¬(corr p.1 64 = corr q.1 64 ∧ corr p.2 32 = corr q.2 32)) :
    s.collides ps = true ↔ ∃ p ∈ ps, s.toggleAnswer p.1 p.2 = true := by
  induction ps generalizing s with
  | nil => simp [State.collides]
  | cons p ps ih =>
    obtain ⟨hp, hps⟩ := List.pairwise_cons.1 hd
    have hkept : ∀ q ∈ ps, (s.dispToggle p.1 p.2).toggleAnswer q.1 q.2 = s.toggleAnswer q.1 q.2 :=
      fun q hq => toggleAnswer_dispToggle_of_ne (hp q hq)
    simp only [State.collides, Bool.or_eq_true, ih hps, List.exists_mem_cons_iff]
    exact or_congr_right (exists_congr fun q => and_congr_right fun hq => by rw [hkept q hq])

/-- The toggles of a sprite collide exactly where it covers a set cell (R166). -/
theorem collides_drawCells_iff {s : State} {x y : Reg} {n : Nat} (hn : n ≤ 32) :
    s.collides (s.drawCells x y n) = true ↔ ∃ qx qy, s.spriteCovers x y n qx qy ∧ s.disp.cell qx qy = true := by
  simp only [collides_iff (drawCells_pairwise_corr hn), ← exists_mem_drawCells_iff]
  constructor
  · rintro ⟨p, hp, hset⟩
    exact ⟨_, _, ⟨p, hp, rfl, rfl⟩, hset⟩
  · rintro ⟨_, _, ⟨p, hp, rfl, rfl⟩, hset⟩
    exact ⟨p, hp, hset⟩

/-! ### Dxyn -/

section
variable {s : State} {x y : Reg} {n : Nat}

/-- After Dxyn, VF is the collision bit (R166). -/
theorem readV_regF_drawEffect : (s.drawEffect x y n).readV regF = flagBit (s.collides (s.drawCells x y n)) :=
  readV_writeV_self ..

variable (hn : n ≤ 32) (hfits : s.spriteFits x y n)
include hn hfits

/-- A covered cell is toggled (R166). -/
theorem cell_drawEffect_of_covers {qx qy : Nat} (h : s.spriteCovers x y n qx qy) :
    (s.drawEffect x y n).disp.cell qx qy = !s.disp.cell qx qy := by
  rw [State.drawEffect, writeV_disp, cell_toggleAll _ _ (inGrid_of_mem_drawCells hfits) (drawCells_pairwise_corr hn),
    if_pos (exists_mem_drawCells_iff.2 h)]

/-- Any other cell is left (R166). -/
theorem cell_drawEffect_of_not_covers {qx qy : Nat} (h : ¬s.spriteCovers x y n qx qy) :
    (s.drawEffect x y n).disp.cell qx qy = s.disp.cell qx qy := by
  rw [State.drawEffect, writeV_disp, cell_toggleAll _ _ (inGrid_of_mem_drawCells hfits) (drawCells_pairwise_corr hn),
    if_neg (mt exists_mem_drawCells_iff.1 h)]

/-- The new requests are those of the sprite (R166, R168). -/
theorem ports_drawEffect : (s.drawEffect x y n).ports = (s.spriteRequests x y n).reverse ++ s.ports := by
  rw [State.drawEffect, writeV_ports, ports_toggleAll _ _ (inGrid_of_mem_drawCells hfits) (drawCells_pairwise_corr hn),
    spriteRequests_eq_map]

end

/-- Settles O28: a run of toggles at the sprite's positions, which are in the grid and distinct once corrected, so that
each toggle finds its cell as it was at the start; then VF. -/
theorem drawXorsTheSprite : Obligations.DrawXorsTheSprite := by
  unfold Obligations.DrawXorsTheSprite
  intro x y n s hn hmem hfits
  have hrows : n ≤ 32 := by omega
  refine ⟨_, exec_drwVxVyN_of_fits hmem hfits, fun _ _ => cell_drawEffect_of_covers hrows hfits,
    fun _ _ => cell_drawEffect_of_not_covers hrows hfits, fun hset => ?_, fun hunset => ?_,
    regsKept_drawEffect s x y n, drawEffect_eq s x y n, ports_drawEffect hrows hfits⟩
  · rw [readV_regF_drawEffect, (collides_drawCells_iff hrows).2 hset]
    rfl
  · rw [readV_regF_drawEffect, Bool.eq_false_iff.2 (mt (collides_drawCells_iff hrows).1 hunset)]
    rfl

/-! ### Dxyn twice -/

section
variable {s t : State} {x y : Reg} (hx : t.readV x = s.readV x) (hy : t.readV y = s.readV y) (hi : t.iReg = s.iReg)
  (hmem : t.mem = s.mem) (hcfg : t.cfg = s.cfg)
include hx hy hi hmem hcfg

/-- Which cells a sprite covers depends on its position, on I and on memory alone. -/
theorem spriteCovers_congr {n qx qy : Nat} : t.spriteCovers x y n qx qy ↔ s.spriteCovers x y n qx qy := by
  simp only [State.spriteCovers, State.base, memRead_congr hmem hcfg, hx, hy, hi]

/-- So does whether it fits. -/
theorem spriteFits_congr {n : Nat} : t.spriteFits x y n ↔ s.spriteFits x y n := by
  simp only [State.spriteFits, State.base, memRead_congr hmem hcfg, hx, hy, hi]

end

/-- Settles O31: the first draw leaves the sprite and its position, so the second toggles the same cells again. -/
theorem drawingTwiceRestoresTheDisplay : Obligations.DrawingTwiceRestoresTheDisplay := by
  unfold Obligations.DrawingTwiceRestoresTheDisplay
  intro x y n s hn hxF hyF hspan hfits
  obtain ⟨t, htexec, htcov, htunc, -, -, htregs, htframe, -⟩ := drawXorsTheSprite x y n s hn hspan hfits
  have hx : t.readV x = s.readV x := htregs x (mt List.mem_singleton.1 hxF)
  have hy : t.readV y = s.readV y := htregs y (mt List.mem_singleton.1 hyF)
  have hi : t.iReg = s.iReg := by rw [htframe]
  have hmem : t.mem = s.mem := by rw [htframe]
  have hcfg : t.cfg = s.cfg := by rw [htframe]
  have hcovers : ∀ qx qy, t.spriteCovers x y n qx qy ↔ s.spriteCovers x y n qx qy :=
    fun _ _ => spriteCovers_congr hx hy hi hmem hcfg
  obtain ⟨u, huexec, hucov, huunc, huset, huunset, -, -, -⟩ := drawXorsTheSprite x y n t hn (by rwa [hi])
    ((spriteFits_congr hx hy hi hmem hcfg).2 hfits)
  have hcollision : (∃ qx qy, t.spriteCovers x y n qx qy ∧ t.disp.cell qx qy = true) ↔
      ∃ qx qy, s.spriteCovers x y n qx qy ∧ s.disp.cell qx qy = false := by
    refine exists_congr fun qx => exists_congr fun qy => ?_
    rw [hcovers]
    exact and_congr_right fun h => by rw [htcov qx qy h, Bool.not_eq_true']
  refine ⟨t, u, htexec, huexec, display_ext fun qx qy _ _ => ?_, fun h => huset (hcollision.2 h),
    fun h => huunset (mt hcollision.1 h)⟩
  by_cases h : s.spriteCovers x y n qx qy
  · rw [hucov qx qy ((hcovers qx qy).2 h), htcov qx qy h, Bool.not_not]
  · rw [huunc qx qy (mt (hcovers qx qy).1 h), htunc qx qy h]

end Sys2Proof.Machine
end

section
/-! PROOFS. The key skips, the delivery of a key and the timer transfers (spec/45_keys_timers.md R180 to R187). -/

namespace Sys2Proof.Machine

/-! ### Key skips -/

/-- Above 15 the key query has no answer (R180). -/
theorem keyQuery_of_gt {s : State} {b : Byte} (h : 15 < b.toNat) : s.keyQuery b = none :=
  dif_neg (Nat.not_lt.2 h)

/-- The query of a key's number answers the key's level (R180). -/
theorem keyQuery_of_toNat {s : State} {b : Byte} {k : Key} (h : b.toNat = k.val) :
    s.keyQuery b = some (s.keyPressed k) := by
  obtain ⟨n, hn⟩ := k
  subst h
  exact dif_pos hn

/-- A skip on the opposite of a level moves PC alone (R181). -/
theorem skipIf_not (s : State) (c : Bool) : s.skipIf (!c) = { s with pc := if c = true then s.pc else s.pc + 2 } := by
  cases c <;> rfl

/-- Settles O32: the two words, and the two answers of the key query. -/
theorem keySkips : Obligations.KeySkips := by
  unfold Obligations.KeySkips
  refine ⟨fun w hop hkk => ?_, fun w hop hkk => ?_, fun x s => ⟨fun h => ?_, fun k h => ?_⟩⟩
  · exact (decode_eq_instr_iff rfl).2 (wordXkk_of_fields hop hkk).symm
  · exact (decode_eq_instr_iff rfl).2 (wordXkk_of_fields hop hkk).symm
  · have hquery : s.keyQuery (s.readV x) = none := keyQuery_of_gt h
    constructor
    · simp only [exec, execSkpVx, hquery]
      rfl
    · simp only [exec, execSknpVx, hquery]
      rfl
  · have hquery : s.keyQuery (s.readV x) = some (s.keyPressed k) := keyQuery_of_toNat h
    constructor
    · simp only [exec, execSkpVx, hquery, skipIf_eq_setPc, State.setPc]
    · simp only [exec, execSknpVx, hquery, skipIf_not]

/-! ### The delivery of a key -/

section
variable {s : State} (k : Key)

/-- A key's level after a level is set or cleared (R187). -/
theorem keyPressed_setKey (k' : Key) (l : Bool) :
    (s.setKey k l).keyPressed k' = if k' = k then l else s.keyPressed k' := by
  simp only [State.keyPressed, setKey_keys, Vector.getElem_set, ← Fin.ext_iff, eq_comm (a := k)]

/-- The delivery leaves the levels to `setKey` (R183). -/
theorem keyPressed_keyDown (k' : Key) : (s.keyDown k).keyPressed k' = (s.setKey k true).keyPressed k' := by
  unfold State.keyDown State.deliverKey
  split <;> rfl

/-- In a wait, the key's number is written to the register of the Fx0A and the latch cleared (R183). -/
theorem keyDown_of_wait (hf : s.fault = none) (hw : s.wait = true) :
    s.keyDown k = { (s.setKey k true).writeV s.waitReg (BitVec.ofNat 8 k.val) with wait := false } := by
  simp only [State.keyDown, State.deliverKey, setKey_fault, setKey_wait, setKey_waitReg, hf, hw, Option.isNone_none,
    Bool.and_self, if_true]

/-- Out of a wait, the level alone is set (R183). -/
theorem keyDown_of_not_wait (hw : s.wait = false) : s.keyDown k = s.setKey k true := by
  simp only [State.keyDown, State.deliverKey, setKey_wait, hw, Bool.and_false, Bool.false_eq_true, if_false]

/-- A key's number fits a register (R183). -/
theorem key_ofNat_toNat : (BitVec.ofNat 8 k.val : Byte).toNat = k.val := by
  rw [BitVec.toNat_ofNat]
  omega

end

/-- Settles O34: the levels are those of `setKey`; the rest is the delivery in a wait, and nothing out of one. -/
theorem keyDownDelivers : Obligations.KeyDownDelivers := by
  unfold Obligations.KeyDownDelivers
  refine fun k s => ⟨?_, fun k' hk => ?_, fun hf hw => ?_, fun h => ?_⟩
  · rw [keyPressed_keyDown, keyPressed_setKey, if_pos rfl]
  · rw [keyPressed_keyDown, keyPressed_setKey, if_neg hk]
  · rw [keyDown_of_wait k hf hw]
    refine ⟨?_, ?_, rfl⟩
    · exact (congrArg BitVec.toNat (readV_writeV_self ..)).trans (key_ofNat_toNat k)
    · exact (regsKept_refl s _).writeV (t := s.setKey k true) (List.mem_singleton.2 rfl) _
  · have hlevel : s.keyDown k = s.setKey k true := h.elim (keyDown_of_fault · k) (keyDown_of_not_wait k)
    rw [hlevel]
    rfl

/-! ### Timer transfers -/

/-- Settles O35: one register write, and one write of each timer. -/
theorem timerTransfers : Obligations.TimerTransfers := by
  unfold Obligations.TimerTransfers
  exact fun x s => ⟨exists_next_of_exec_writeV rfl, rfl, rfl⟩

end Sys2Proof.Machine
end

section
/-! PROOFS. Exceptions: an instruction and a step answer in every state, and a raise changes the fault latch alone
(spec/60_exceptions.md R200, R201, R205). -/

namespace Sys2Proof.Machine

/-- Settles O36: what an instruction answers is one of its effects, a raise among them. -/
theorem everyInstructionAnswersNext : Obligations.EveryInstructionAnswersNext := by
  unfold Obligations.EveryInstructionAnswersNext
  intro i s
  obtain ⟨t, ht, -⟩ := exec_effect i s
  exact ⟨t, ht⟩

/-- An instruction keeps the fault latch, or leaves the state as it was but for an error that R201 gives it (R200, R205). -/
theorem Effect.fault_eq_or_afterFault {s t : State} {i : Instr} (heff : Effect s i t) :
    t.fault = s.fault ∨ ∃ e, t = s.afterFault e ∧ i.mayRaise e := by
  cases heff with
  | raise e he => exact .inr ⟨e, raise_eq s e, he⟩
  | bcd x | store x => rw [memWriteList_eq]; exact .inl rfl
  | draw x y n => rw [drawEffect_eq]; exact .inl rfl
  | _ => exact .inl rfl

/-- Settles O37: of the effects of an instruction, a raise alone latches a fault. -/
theorem faultsArePrecise : Obligations.FaultsArePrecise := by
  unfold Obligations.FaultsArePrecise
  intro i s t hf hexec ht
  obtain hkept | hraise := (effect_of_exec hexec).fault_eq_or_afterFault
  · exact absurd (hkept.trans hf) ht
  · exact hraise

/-- Settles O49: what a step answers is one of its effects, the idle step and a raise among them. -/
theorem everyStepAnswersNext : Obligations.EveryStepAnswersNext := by
  unfold Obligations.EveryStepAnswersNext
  intro s
  obtain ⟨t, ht, -⟩ := step_effect s
  exact ⟨t, ht⟩

end Sys2Proof.Machine
end
